-- ==== Sys2Proof/Word.lean ====
section
/-! DEFINITION. The value types of the block (spec 00_scope.md R8): unsigned bytes and 16-bit unsigned fields. -/

namespace Sys2Proof

/-- A byte: 8 bits, unsigned 0..255 (R8). -/
abbrev Byte := BitVec 8

/-- A 16-bit unsigned field: marker, PM2.5, PM10, checksum (R8, R42). -/
abbrev Word16 := BitVec 16

end Sys2Proof
end

