-- ==== Sys2Proof/Syntax.lean ====
section
/-! DEFINITION. The instructions: one constructor per row of spec/opcode_table.json. The first seven are the request
words of 30_encoding.md R61 and R62; the last four are the marker classes of R68, which the block decodes from the
front of its buffer inside an INGEST. -/

namespace Sys2Proof

/-- One constructor per row of the opcode table. -/
inductive Instr where
  /-- INGEST, request word 0x00, with its chunk, earliest byte first (R64, R100). -/
  | ingest (chunk : List Byte)
  /-- READ, request word 0x40 (R140). -/
  | read
  /-- ENCODE START, request word 0x80 (R152). -/
  | encodeStart
  /-- ENCODE STOP, request word 0x81 (R153). -/
  | encodeStop
  /-- ENCODE AUTOSEND_ON, request word 0x82 (R154). -/
  | encodeAutosendOn
  /-- ENCODE AUTOSEND_OFF, request word 0x83 (R155). -/
  | encodeAutosendOff
  /-- RESET, request word 0xC0 (R170). -/
  | reset
  /-- The data-frame marker 0x424D (R104). -/
  | markerData
  /-- The ACK OK marker 0xA5A5 (R105). -/
  | markerAckOk
  /-- The ACK ERROR marker 0x9696 (R106). -/
  | markerAckError
  /-- Any other marker value m (R107). -/
  | markerOther (m : Word16)
deriving DecidableEq, Repr

/-- DRAIN, the only pseudo-operation: INGEST of the empty chunk (R73). -/
def Instr.drain : Instr := .ingest []

/-- The classes of the marker map (R68). -/
inductive MarkerClass where
  | data
  | ackOk
  | ackError
  | other
deriving DecidableEq, Repr

/-- An instruction as it is carried, before decoding. -/
inductive RawInstr where
  /-- A request: its 8-bit word and the data bytes sent with it; only an INGEST takes data (R60, R75). -/
  | request (word : Byte) (data : List Byte)
  /-- The two bytes at the buffer's front, in stream order (R68). -/
  | marker (first second : Byte)
deriving DecidableEq, Repr

end Sys2Proof
end

