-- ==== Sys2Proof/WellFormed.lean ====
section
/-! DEFINITION. Which terms of Instr the spec spells. -/

namespace Sys2Proof

/-- The one check an instruction as syntax can fail: markerOther stands only for a value that the three rows above it
do not match (R68: rows are exclusive). Any chunk is well formed (R64: n = 0 is legal; the bound MAX_CHUNK is a
parameter of the machine, tested when the request is performed, R207). -/
def Instr.wf : Instr → Bool
  | .ingest _ => true
  | .read => true
  | .encodeStart => true
  | .encodeStop => true
  | .encodeAutosendOn => true
  | .encodeAutosendOff => true
  | .reset => true
  | .markerData => true
  | .markerAckOk => true
  | .markerAckError => true
  | .markerOther m => m != 0x424D#16 && m != 0xA5A5#16 && m != 0x9696#16

end Sys2Proof
end

