-- ==== Sys2Proof/Decode.lean ====
section
/-! DEFINITION. The two decoders of spec 30_encoding.md (request words, R60 to R63, and markers, R68), the encoder
written from the same tables, and the host's view of the opcode table. -/

namespace Sys2Proof

/-- BE16: the earlier byte is the more significant (R11, R42). -/
def be16 (a b : Byte) : Word16 := (a.setWidth 16 <<< 8) ||| b.setWidth 16

/-- The field op of a request word, bits 7:6 (R60). -/
def reqOp (w : Byte) : BitVec 2 := w.extractLsb' 6 2

/-- The reserved field rsv of a request word, bits 5:2 (R60). -/
def reqRsv (w : Byte) : BitVec 4 := w.extractLsb' 2 4

/-- The field sel of a request word, bits 1:0 (R60). -/
def reqSel (w : Byte) : BitVec 2 := w.extractLsb' 0 2

/-- The ENCODE command a selector picks (R62: all four values are defined). -/
def encodeOfSel (sel : BitVec 2) : Instr :=
  if sel = 0b00#2 then .encodeStart
  else if sel = 0b01#2 then .encodeStop
  else if sel = 0b10#2 then .encodeAutosendOn
  else .encodeAutosendOff

/-- The request decoder (R60 to R63, R75). A word with rsv not 0, or with sel not 0 where op is not 10, spells no
operation. Only an INGEST takes the data bytes; DESIGN CHOICE (entry 5),
unsafe: data sent beside another word is not looked at. -/
def decodeRequest (w : Byte) (data : List Byte) : Option Instr :=
  if reqRsv w ≠ 0 then none
  else if reqOp w = 0b10#2 then some (encodeOfSel (reqSel w))
  else if reqSel w ≠ 0 then none
  else if reqOp w = 0b00#2 then some (.ingest data)
  else if reqOp w = 0b01#2 then some .read
  else some .reset

/-- The marker map (R68): rows tried in order, the last matching every value the first three do not. -/
def classifyMarker (m : Word16) : MarkerClass :=
  if m = 0x424D#16 then .data
  else if m = 0xA5A5#16 then .ackOk
  else if m = 0x9696#16 then .ackError
  else .other

/-- The marker decoder (R68): every 16-bit value is some row's. -/
def decodeMarker (m : Word16) : Instr :=
  match classifyMarker m with
  | .data => .markerData
  | .ackOk => .markerAckOk
  | .ackError => .markerAckError
  | .other => .markerOther m

/-- Decoding, total: `none` only for the request words that spell no operation (R63). -/
def decode : RawInstr → Option Instr
  | .request w data => decodeRequest w data
  | .marker a b => some (decodeMarker (be16 a b))

/-- A request word from its fields op, rsv = 0 and sel (R60). -/
def requestWord (op sel : BitVec 2) : Byte := op ++ (0#4 ++ sel)

/-- The two bytes of a 16-bit marker in stream order, high byte first (R42). -/
def rawMarker (m : Word16) : RawInstr := .marker (m.extractLsb' 8 8) (m.extractLsb' 0 8)

/-- The encoder (R60 to R62 for requests, R68 for markers). -/
def encode : Instr → RawInstr
  | .ingest chunk => .request (requestWord 0b00#2 0b00#2) chunk
  | .read => .request (requestWord 0b01#2 0b00#2) []
  | .encodeStart => .request (requestWord 0b10#2 0b00#2) []
  | .encodeStop => .request (requestWord 0b10#2 0b01#2) []
  | .encodeAutosendOn => .request (requestWord 0b10#2 0b10#2) []
  | .encodeAutosendOff => .request (requestWord 0b10#2 0b11#2) []
  | .reset => .request (requestWord 0b11#2 0b00#2) []
  | .markerData => rawMarker 0x424D#16
  | .markerAckOk => rawMarker 0xA5A5#16
  | .markerAckError => rawMarker 0x9696#16
  | .markerOther m => rawMarker m

/-- A word of the opcode table as the block would see it: 8 bits are a request word, sent with no data bytes (n = 0);
16 bits are a marker, whose two bytes lie in the stream high byte first. The one row the table fixes no bit of is
MARKER_OTHER, so a word of no bits is that row's marker of zeros. No other width is a row's. -/
def rawOfTableWord (nbits w : Nat) : Option RawInstr :=
  if nbits = 8 then some (.request (BitVec.ofNat 8 w) [])
  else if nbits = 16 ∨ nbits = 0 then some (rawMarker (BitVec.ofNat 16 w))
  else none

/-- What the decoder reads from a word of the opcode table. -/
def decodeTableWord (nbits w : Nat) : Option Instr := (rawOfTableWord nbits w).bind decode

end Sys2Proof
end

