-- ==== Sys2Proof/Config.lean ====
section
/-! DEFINITION. The implementation parameters of spec 00_scope.md section 4. -/

namespace Sys2Proof.Config

/-- FRAME_LEN: a data frame is exactly 32 bytes (R5). -/
def frameLen : Nat := 32

/-- CAP: the accumulation buffer's fixed maximum capacity, 16 data frames (R6). -/
def cap : Nat := 16 * frameLen

/-- The value State.reset gives the field maxChunk. DESIGN CHOICE (entry 1), unsafe: the spec leaves MAX_CHUNK open
(R7, D16: any natural number is legal), so no statement rests on this number; State.powerOn takes any other. -/
def resetMaxChunk : Nat := 65535

end Sys2Proof.Config
end

