-- ==== Sys2Proof/Machine/State.lean ====
section
/-! DEFINITION. The machine's state as plain data: the architectural tuple of spec 10_state.md R20, the requests the
block has still to perform, and what a run yields (the responses and the refusal mark). -/

namespace Sys2Proof.Machine

/-- The decoder state (R23). -/
inductive DecoderState where
  | idle
  | readingFrame
deriving DecidableEq, Repr

/-- The events of an INGEST (R66); the codes 110 and 111 have no constructor (R67). -/
inductive Event where
  | none
  | ignored
  | ackOk
  | ackError
  | frameInvalid
  | frameValid
deriving DecidableEq, Repr

/-- A device-bound command frame, four bytes in transmission order (R71). -/
structure CommandFrame where
  c0 : Byte
  c1 : Byte
  c2 : Byte
  c3 : Byte
deriving DecidableEq, Repr

/-- The response of a legal request (R65). -/
inductive Response where
  /-- evt, ovf, ev_pm25, ev_pm10 -/
  | ingest (evt : Event) (ovf : Bool) (evPm25 evPm10 : Word16)
  /-- valid, pm25, pm10 -/
  | read (valid : Bool) (pm25 pm10 : Word16)
  /-- the four bytes c[0..4) -/
  | encode (frame : CommandFrame)
  /-- completion only -/
  | reset
deriving DecidableEq, Repr

/-- The event an INGEST's response carries; other responses carry none (R65). -/
def Response.event : Response → Option Event
  | .ingest evt _ _ _ => some evt
  | .read _ _ _ => Option.none
  | .encode _ => Option.none
  | .reset => Option.none

/-- Who issues requests (R211): the one ingest agent, any number of readers, the command agent. -/
inductive Agent where
  | ingestAgent
  | reader (n : Nat)
  | commandAgent
deriving DecidableEq, Repr

/-- One request (R60) and its issuer; no operation looks at the issuer (R210). -/
structure Request where
  issuer : Agent
  word : Byte
  data : List Byte
deriving DecidableEq, Repr

/-- The reason a request is refused (R12 refuse(reason), R207). -/
inductive RefuseReason where
  /-- The word spells no operation (R63). -/
  | illegalWord (w : Byte)
  /-- An INGEST with n > MAX_CHUNK (R7). -/
  | chunkTooLong (n : Nat)
deriving DecidableEq, Repr

/-- The state. -/
structure State where
  /-- The accumulation buffer, oldest byte first (R21). -/
  buf : List Byte
  /-- The decoder state (R23). -/
  st : DecoderState
  /-- Reading validity (R24). -/
  rdValid : Bool
  /-- Reading PM2.5 (R24). -/
  rdPm25 : Word16
  /-- Reading PM10 (R24). -/
  rdPm10 : Word16
  /-- MAX_CHUNK, the parameter the model takes as an argument (R7); no step writes it (entry 1). -/
  maxChunk : Nat
  /-- The requests still to be performed, in the order the block performs them (R49): DESIGN CHOICE (entries 2 and 9),
  safe, since every order is a state. -/
  requests : List Request
  /-- The responses returned so far, oldest first (R242): DESIGN CHOICE (entry 3), safe. -/
  responses : List Response
  /-- The refusal mark, kept for the rest of the run (R207): the reason of the first refused request. -/
  refusalMark : Option RefuseReason
deriving DecidableEq, Repr

/-- The reasons a step could stop with a fault: none. Every legal operation on every state has one defined result
(R200, and the closing paragraph of 93_implementation_defined.md section 1), so nothing raises one. -/
inductive Fault where
deriving DecidableEq, Repr

/-- The reasons a step could end with no meaning. A request the BLOCK refuses (R207) is not one of them: it has the
effect R207 gives it, the refusal mark. -/
inductive Refusal where
  /-- Raised by exec's arm of an instruction that has no meaning yet; safe. No arm raises it. -/
  | notModelled (mnemonic : String)
deriving DecidableEq, Repr

/-- What one operation answers. -/
abbrev StepResult := Host.Outcome State Fault Refusal

/-- len, a view of buf (R22). -/
def State.len (s : State) : Nat := s.buf.length

/-- The state after power-on or RESET (R32, R230) of a block whose MAX_CHUNK is maxChunk, with nothing pending,
nothing returned and no refusal. -/
def State.powerOn (maxChunk : Nat) : State where
  buf := []
  st := .idle
  rdValid := false
  rdPm25 := 0x0000#16
  rdPm10 := 0x0000#16
  maxChunk := maxChunk
  requests := []
  responses := []
  refusalMark := none

/-- The machine right after reset (R32), with the MAX_CHUNK of entry 1. -/
def State.reset : State := State.powerOn Config.resetMaxChunk

end Sys2Proof.Machine
end

