-- ==== Sys2Proof/Machine/Operands.lean ====
section
/-! DEFINITION. Operand forms: the fields of a data frame (spec 30_encoding.md R69) and the command table with its
checksum byte (R71, R150, R151). -/

namespace Sys2Proof.Machine

/-- s[i] (R10). Every rule reads an index inside the sequence; the 0 beyond its end is no
operand of one: DESIGN CHOICE (entry 11), safe. -/
def byteAt (s : List Byte) (i : Nat) : Byte := s.getD i 0

/-- A big-endian 2-byte field at offset i (R42). -/
def fieldAt (s : List Byte) (i : Nat) : Word16 := be16 (byteAt s i) (byteAt s (i + 1))

/-- The marker at the front of a buffer (R68). -/
def frontMarker (buf : List Byte) : Word16 := fieldAt buf 0

/-- The exact sum of the unsigned bytes 0 to 29 (R110). -/
def frameSum (f : List Byte) : Nat := ((f.take 30).map BitVec.toNat).sum

/-- The checksum field, bytes 30-31 (R111). -/
def frameChecksum (f : List Byte) : Word16 := fieldAt f 30

/-- PM2.5, bytes 6-7 (R112). -/
def framePm25 (f : List Byte) : Word16 := fieldAt f 6

/-- PM10, bytes 8-9 (R113). -/
def framePm10 (f : List Byte) : Word16 := fieldAt f 8

/-- CMD_OPCODE: the device opcode byte of each selector (R62, R150). -/
def commandOpcode (sel : BitVec 2) : Byte :=
  if sel = 0b00#2 then 0x01#8
  else if sel = 0b01#2 then 0x02#8
  else if sel = 0b10#2 then 0x40#8
  else 0x20#8

/-- The fourth byte of a command frame: the two's complement of the 8-bit sum of the first three (R151, D10). -/
def commandChecksum (c0 c1 c2 : Byte) : Byte :=
  BitVec.ofNat 8 ((0x100 - (c0.toNat + c1.toNat + c2.toNat) % 0x100) % 0x100)

/-- The command frame of a selector (R150). -/
def commandFrame (sel : BitVec 2) : CommandFrame where
  c0 := 0x68#8
  c1 := 0x01#8
  c2 := commandOpcode sel
  c3 := commandChecksum 0x68#8 0x01#8 (commandOpcode sel)

/-- The bytes of a command frame in transmission order (R71). -/
def commandBytes (c : CommandFrame) : List Byte := [c.c0, c.c1, c.c2, c.c3]

end Sys2Proof.Machine
end

