-- ==== Sys2Proof/Machine/Flags.lean ====
section
/-! DEFINITION. The tests and codes an INGEST reports: the MAX_CHUNK bound (spec R207), overflow (R101), the checksum
test (R111) and the event codes (R66). -/

namespace Sys2Proof.Machine

/-- n > MAX_CHUNK (R7, R207). -/
def tooLong (chunk : List Byte) (s : State) : Bool := decide (s.maxChunk < chunk.length)

/-- The overflow test len + n > CAP; strict, so exactly CAP bytes fit (R101). -/
def overflows (chunk : List Byte) (s : State) : Bool := decide (Config.cap < s.len + chunk.length)

/-- The checksum test s[15:0] = c (R111). -/
def checksumPasses (f : List Byte) : Bool := BitVec.ofNat 16 (frameSum f) == frameChecksum f

/-- The 3-bit event code (R66). -/
def eventCode : Event → BitVec 3
  | .none => 0b000#3
  | .ignored => 0b001#3
  | .ackOk => 0b010#3
  | .ackError => 0b011#3
  | .frameInvalid => 0b100#3
  | .frameValid => 0b101#3

end Sys2Proof.Machine
end

