-- ==== Sys2Proof/Machine/Ops.lean ====
section
/-! DEFINITION. The named operations over the state: the buffer primitives (spec R44 to R46), the writes of st and of
the Reading, the response (R65), the refusal (R207), and taking the next request (R49, R60). The block has no trap
(R200), so there is no trap entry and no return here; the refusal is its one anomaly outside a response. -/

namespace Sys2Proof.Machine

/-- Append(s) (R44). -/
def append (chunk : List Byte) (s : State) : State := { s with buf := s.buf ++ chunk }

/-- Compact(k) (R45). -/
def compact (k : Nat) (s : State) : State := { s with buf := s.buf.drop k }

/-- Clear() (R46). -/
def clear (s : State) : State := { s with buf := [] }

/-- st <- d (R23). -/
def setSt (d : DecoderState) (s : State) : State := { s with st := d }

/-- The three Reading fields written together (R24, R114). -/
def setReading (valid : Bool) (pm25 pm10 : Word16) (s : State) : State :=
  { s with rdValid := valid, rdPm25 := pm25, rdPm10 := pm10 }

/-- Return a response (R65): what a run yields grows by one (R242). -/
def respond (r : Response) (s : State) : State := { s with responses := s.responses ++ [r] }

/-- End an INGEST with an event other than FRAME_VALID and no overflow: the fields are 0x0000 (R65, R74). -/
def emit (evt : Event) (s : State) : State := respond (.ingest evt false 0x0000#16 0x0000#16) s

/-- End an INGEST with FRAME_VALID and the extracted fields (R114). -/
def emitValid (pm25 pm10 : Word16) (s : State) : State := respond (.ingest .frameValid false pm25 pm10) s

/-- End an INGEST on the overflow path: no event, ovf = 1 (R74, R101). -/
def emitOverflow (s : State) : State := respond (.ingest .none true 0x0000#16 0x0000#16) s

/-- refuse(reason) (R12, R207): no state change, no response, the mark kept for the rest of the run. That the first
reason is the one kept, and that the machine then goes on, is DESIGN CHOICE (entry 4), unsafe for a claim that does not
ask for an unset mark. -/
def refuse (reason : RefuseReason) (s : State) : State :=
  { s with refusalMark := s.refusalMark.or (some reason) }

/-- Every piece of state at its reset value (R32, R170). -/
def resetBlock (s : State) : State := setReading false 0x0000#16 0x0000#16 (setSt .idle (clear s))

/-- The next request in the total order and the state in which it is performed; `none` when the host has issued
nothing more (R242). -/
def takeRequest (s : State) : Option (Request × State) :=
  match s.requests with
  | [] => none
  | r :: rest => some (r, { s with requests := rest })

/-- A request placed to be performed next. -/
def placeRequest (r : Request) (s : State) : State := { s with requests := r :: s.requests }

/-- The two bytes of a marker placed where the block decodes a marker: at the buffer's front, in Idle (R68). -/
def placeMarker (first second : Byte) (s : State) : State :=
  { s with buf := first :: second :: s.buf.drop 2, st := .idle }

/-- An instruction as carried, placed so that the next step decodes and runs it: a request as the next request; a
marker at the buffer's front, with a DRAIN as the next request, since a marker is decoded by an INGEST (R68, R73). -/
def placeRaw : RawInstr → State → State
  | .request w data, s => placeRequest ⟨.ingestAgent, w, data⟩ s
  | .marker a b, s => placeRequest ⟨.ingestAgent, 0x00#8, []⟩ (placeMarker a b s)

end Sys2Proof.Machine
end

