-- ==== Sys2Proof/Machine/Encode.lean ====
section
/-! DEFINITION. ENCODE (spec 42_encode.md R150), one meaning per command. -/

namespace Sys2Proof.Machine

/-- ENCODE(sel): return the selector's frame; no state is read or written (R150, R156). -/
def encodeCommand (sel : BitVec 2) (s : State) : State := respond (.encode (commandFrame sel)) s

/-- ENCODE START (R152). -/
def execEncodeStart (s : State) : StepResult := .next (encodeCommand 0b00#2 s)

/-- ENCODE STOP (R153). -/
def execEncodeStop (s : State) : StepResult := .next (encodeCommand 0b01#2 s)

/-- ENCODE AUTOSEND_ON (R154). -/
def execEncodeAutosendOn (s : State) : StepResult := .next (encodeCommand 0b10#2 s)

/-- ENCODE AUTOSEND_OFF (R155). -/
def execEncodeAutosendOff (s : State) : StepResult := .next (encodeCommand 0b11#2 s)

end Sys2Proof.Machine
end

