-- ==== Sys2Proof/Machine/Frame.lean ====
section
/-! DEFINITION. The end of an INGEST in ReadingFrame: wait for 32 bytes, extract one frame, test its checksum, record
its fields (spec 40_ingest.md sections 5 to 9). -/

namespace Sys2Proof.Machine

/-- The result of the frame f, taken from the buffer (R111 to R115). -/
def judgeFrame (f : List Byte) (s : State) : State :=
  if checksumPasses f then
    emitValid (framePm25 f) (framePm10 f) (setReading true (framePm25 f) (framePm10 f) s)
  else emit .frameInvalid s

/-- Extraction: one frame leaves the buffer, the lookahead stays, st <- Idle whatever the checksum (R109). -/
def extractFrame (s : State) : State :=
  judgeFrame (s.buf.take Config.frameLen) (setSt .idle (compact Config.frameLen s))

/-- ReadingFrame: await more bytes (R108) or extract (R109). -/
def collectFrame (s : State) : State :=
  if s.len < Config.frameLen then emit .none s else extractFrame s

end Sys2Proof.Machine
end

