-- ==== Sys2Proof/Machine/Marker.lean ====
section
/-! DEFINITION. The meanings of the four marker classes (spec 40_ingest.md section 4): what the block does when it has
decoded the marker at the front of its buffer. Each ends the INGEST that decoded the marker, and gives its response. None tests again that its marker is there:
DESIGN CHOICE (entry 8), safe, since only the decoder calls one. -/

namespace Sys2Proof.Machine

/-- Clear the whole buffer and report why: the common shape of R105, R106 and R107. -/
def clearAndEmit (evt : Event) (s : State) : State := emit evt (clear s)

/-- MARKER_DATA (R104): st <- ReadingFrame, then R108 or R109 in the same operation (D6). -/
def execMarkerData (s : State) : StepResult := .next (collectFrame (setSt .readingFrame s))

/-- MARKER_ACK_OK (R105). -/
def execMarkerAckOk (s : State) : StepResult := .next (clearAndEmit .ackOk s)

/-- MARKER_ACK_ERROR (R106). -/
def execMarkerAckError (s : State) : StepResult := .next (clearAndEmit .ackError s)

/-- MARKER_OTHER (R107): the value m itself has no further effect. -/
def execMarkerOther (_m : Word16) (s : State) : StepResult := .next (clearAndEmit .ignored s)

end Sys2Proof.Machine
end

