-- ==== Sys2Proof/Machine/Ingest.lean ====
section
/-! DEFINITION. INGEST (spec 40_ingest.md R100), its steps in the fixed order of R208. -/

namespace Sys2Proof.Machine

/-- Step 1, overflow: buffer and chunk discarded, Idle, ovf = 1 (R101). -/
def discardAll (s : State) : State := emitOverflow (setSt .idle (clear s))

/-- Step 3 in Idle: decode the marker at the buffer's front and run it (R68, R104 to R107). -/
def classifyFront (s : State) : StepResult :=
  match classifyMarker (frontMarker s.buf) with
  | .data => execMarkerData s
  | .ackOk => execMarkerAckOk s
  | .ackError => execMarkerAckError s
  | .other => execMarkerOther (frontMarker s.buf) s

/-- Steps 2 to 5, after the append: too few bytes (R103), the marker if Idle, else the frame (R108, R109). -/
def synchronize (s : State) : StepResult :=
  if s.len < 2 then .next (emit .none s)
  else
    match s.st with
    | .idle => classifyFront s
    | .readingFrame => .next (collectFrame s)

/-- INGEST (R100). An n above MAX_CHUNK is refused whatever len is (R207), then overflow (R101), then append (R102). -/
def execIngest (chunk : List Byte) (s : State) : StepResult :=
  if tooLong chunk s then .next (refuse (.chunkTooLong chunk.length) s)
  else if overflows chunk s then .next (discardAll s)
  else synchronize (append chunk s)

end Sys2Proof.Machine
end

