-- ==== Sys2Proof/Machine/Read.lean ====
section
/-! DEFINITION. READ (spec 41_read.md R140). -/

namespace Sys2Proof.Machine

/-- READ: one snapshot of the whole Reading, nothing written (R140, R48, R53). -/
def execRead (s : State) : StepResult := .next (respond (.read s.rdValid s.rdPm25 s.rdPm10) s)

end Sys2Proof.Machine
end

