-- ==== Sys2Proof/Machine/Reset.lean ====
section
/-! DEFINITION. RESET (spec 43_reset.md R170). -/

namespace Sys2Proof.Machine

/-- RESET: all of buf, st and the Reading at once, then completion (R170, R65). The refusal mark stays, being kept for
the rest of the run (R207). -/
def execReset (s : State) : StepResult := .next (respond .reset (resetBlock s))

end Sys2Proof.Machine
end

