-- ==== Sys2Proof/Machine/Dispatch.lean ====
section
/-! DEFINITION. Every instruction to its meaning. -/

namespace Sys2Proof.Machine

def exec (i : Instr) (s : State) : Host.Outcome State Fault Refusal :=
  match i with
  | .ingest chunk => Sys2Proof.Machine.execIngest chunk s
  | .read => Sys2Proof.Machine.execRead s
  | .encodeStart => Sys2Proof.Machine.execEncodeStart s
  | .encodeStop => Sys2Proof.Machine.execEncodeStop s
  | .encodeAutosendOn => Sys2Proof.Machine.execEncodeAutosendOn s
  | .encodeAutosendOff => Sys2Proof.Machine.execEncodeAutosendOff s
  | .reset => Sys2Proof.Machine.execReset s
  | .markerData => Sys2Proof.Machine.execMarkerData s
  | .markerAckOk => Sys2Proof.Machine.execMarkerAckOk s
  | .markerAckError => Sys2Proof.Machine.execMarkerAckError s
  | .markerOther m => Sys2Proof.Machine.execMarkerOther m s

end Sys2Proof.Machine
end

