-- ==== Sys2Proof/Machine/Step.lean ====
section
/-! DEFINITION. One step: the block performs the next request as one atomic operation (spec R47, R49). -/

namespace Sys2Proof.Machine

/-- The next request is decoded and run; one that spells no operation is refused (R207). With no request pending
nothing happens: the state persists (R216, R242): DESIGN CHOICE (entry 2), safe. -/
def step (s : State) : Host.Outcome State Fault Refusal :=
  match takeRequest s with
  | none => .next s
  | some (r, s') =>
    match decodeRequest r.word r.data with
    | none => .next (refuse (.illegalWord r.word) s')
    | some i => exec i s'

/-- s with the instruction of the opcode-table word w as the next one step runs: DESIGN CHOICE (entry 6), safe. A width that is no row's
places nothing. -/
def State.withFetchWord (s : State) (nbits w : Nat) : State :=
  match rawOfTableWord nbits w with
  | none => s
  | some raw => placeRaw raw s

end Sys2Proof.Machine
end

