-- ==== Sys2Proof/Machine/Session.lean ====
section
/-! DEFINITION. The host's session around the block (spec 60_exceptions.md R206, R212, 70_reset_and_hazards.md R231 to
R234): the calls start and stop as sequences of tasks, one task at a time, so that deliveries, polls and single commands
can fall anywhere among them; what the host writes to the transport and how long it waits; and what each call, command and
poll returns. -/

namespace Sys2Proof.Machine

/-- What the host does outside the block, in order. -/
inductive HostAct where
  /-- Wrote these bytes to the transport, which took them. -/
  | wrote (bytes : List Byte)
  /-- Tried to write these bytes, and the transport reported a fault (R206). -/
  | writeFailed (bytes : List Byte)
  /-- Waited this long between two writes (R234). -/
  | waited (time : Nat)
deriving DecidableEq, Repr

/-- How the transport takes a write: the environment's free choice (R4 (a), R206). -/
inductive WriteOutcome where
  | accepted
  | faulted
deriving DecidableEq, Repr

/-- The calls that write a pair of commands (R212, rows session start and session stop). -/
inductive HostCall where
  /-- start() (R231, R233) -/
  | start
  /-- stop() (R232) -/
  | stop
deriving DecidableEq, Repr

/-- What a call, or the write of a single command, returns to its caller (R206). -/
inductive CallAnswer where
  | completed
  /-- A TransportFault on a command write, surfaced to the caller. -/
  | transportFault
deriving DecidableEq, Repr

/-- What a reader makes of a READ's response (R212, row reading poll; 41_read.md R141). -/
inductive PollResult where
  /-- valid = 0: the fields are ignored. -/
  | unavailable
  /-- valid = 1: the two readings. -/
  | readings (pm25 pm10 : Word16)
deriving DecidableEq, Repr

/-- One task of a call. -/
inductive HostTask where
  /-- RESET (R231 step 1). -/
  | reset
  /-- ENCODE and write the four bytes it returned. -/
  | send (sel : BitVec 2)
  /-- The settle pause (R234). -/
  | settle
  /-- Record whether the session is started. -/
  | setStarted (b : Bool)
deriving DecidableEq, Repr

/-- One session owns one block (R215). -/
structure Session where
  block : State
  /-- The host's writes and waits so far, oldest first. -/
  trace : List HostAct
  /-- SETTLE_DELAY, the parameter the model takes as an argument (R234, D21); nothing writes it:
  DESIGN CHOICE (entry 10), safe. -/
  settleDelay : Nat
  /-- Whether the session is started (R233). -/
  started : Bool
  /-- The calls made and not yet begun, oldest first. Calls are carried out one after another: DESIGN CHOICE
  (entry 14), unsafe for a claim about calls that overlap. -/
  waiting : List HostCall
  /-- The tasks left of the call in progress; none when no call is. -/
  tasks : List HostTask
  /-- What start() and stop() returned to their callers, oldest first (R206). -/
  answers : List CallAnswer
  /-- What the single commands returned to their callers, oldest first (R206, R212). -/
  commandAnswers : List CallAnswer
  /-- What the polls gave, each with the agent that polled, oldest first (R212). -/
  polls : List (Agent × PollResult)
deriving DecidableEq, Repr

/-- A session around a block, not started, with no call, command or poll made. -/
def Session.opened (block : State) (settleDelay : Nat) : Session where
  block := block
  trace := []
  settleDelay := settleDelay
  started := false
  waiting := []
  tasks := []
  answers := []
  commandAnswers := []
  polls := []

/-- What a host action answers. -/
abbrev SessionResult := Host.Outcome Session Fault Refusal

/-- Go on with the next action, unless the block stopped. -/
def goOn (o : SessionResult) (next : Session → SessionResult) : SessionResult :=
  match o with
  | .next h => next h
  | .fault r => .fault r
  | .refused r => .refused r

/-- Issue one request and let the block perform it. -/
def issue (a : Agent) (w : Byte) (data : List Byte) (h : Session) : SessionResult :=
  match step (placeRequest ⟨a, w, data⟩ h.block) with
  | .next b => .next { h with block := b }
  | .fault r => .fault r
  | .refused r => .refused r

/-- Note what the host did outside the block. -/
def note (a : HostAct) (h : Session) : Session := { h with trace := h.trace ++ [a] }

/-- The call goes on with the tasks left; with none left it has completed. -/
def continueCall (rest : List HostTask) (h : Session) : Session :=
  match rest with
  | [] => { h with tasks := [], answers := h.answers ++ [.completed] }
  | t :: ts => { h with tasks := t :: ts }

/-- A TransportFault on a command write: surfaced to the caller and fatal to the call, whose other tasks are dropped, but
not to the session, which keeps everything else (R206). That the other tasks are dropped and the started flag stays as it
was is DEDUCED (entry 13), unsafe. -/
def abandonCall (h : Session) : Session :=
  { h with tasks := [], answers := h.answers ++ [.transportFault] }

/-- The bytes the last operation returned, if it was an ENCODE. -/
def lastFrameBytes (s : State) : List Byte :=
  match s.responses.getLast? with
  | some (.encode f) => commandBytes f
  | some (.ingest _ _ _ _) => []
  | some (.read _ _ _) => []
  | some .reset => []
  | none => []

/-- The write of some bytes, as the transport takes it (R206). -/
def writeAct (w : WriteOutcome) (bytes : List Byte) : HostAct :=
  match w with
  | .accepted => .wrote bytes
  | .faulted => .writeFailed bytes

/-- ENCODE, then write the bytes it returned to the transport, c[0] first (R212). The ENCODE itself never fails (R150,
R206). Nothing falls between the two, since ENCODE reads and writes no state: what falls between them is before or after
both; DESIGN CHOICE (entry 14), safe. -/
def encodeAndWrite (a : Agent) (sel : BitVec 2) (w : WriteOutcome) (h : Session) : SessionResult :=
  goOn (issue a (requestWord 0b10#2 sel) [] h) fun h' => .next (note (writeAct w (lastFrameBytes h'.block)) h')

/-- After a write of a call: the call goes on, or is abandoned (R206). -/
def afterWrite (w : WriteOutcome) (rest : List HostTask) (h : Session) : Session :=
  match w with
  | .accepted => continueCall rest h
  | .faulted => abandonCall h

/-- A command of a call, by the command agent (R211 (c)). -/
def sendCommand (sel : BitVec 2) (w : WriteOutcome) (rest : List HostTask) (h : Session) : SessionResult :=
  goOn (encodeAndWrite .commandAgent sel w h) fun h' => .next (afterWrite w rest h')

/-- What the writer of a command is answered (R206). -/
def writeAnswer (w : WriteOutcome) : CallAnswer :=
  match w with
  | .accepted => .completed
  | .faulted => .transportFault

/-- A single command, at any time and by any agent (R150; R212, row command), in the middle of a call too, whose tasks it
leaves, when its write faults too: DEDUCED (entry 13), unsafe. It leaves the started flag as it was, START and STOP too, and has no settle pause before or after it, not even in a
row of commands that spells a pair: R231 to R234 speak of the flag and of the pause for start() and stop() only; DESIGN
CHOICE (entry 15), unsafe for a claim about the flag after such a command. -/
def singleCommand (a : Agent) (sel : BitVec 2) (w : WriteOutcome) (h : Session) : SessionResult :=
  goOn (encodeAndWrite a sel w h) fun h' => .next { h' with commandAnswers := h'.commandAnswers ++ [writeAnswer w] }

/-- What the last operation, a READ, gives its reader: with valid = 0 unavailable, and the fields ignored (R141, R212). -/
def lastPollResult (s : State) : PollResult :=
  match s.responses.getLast? with
  | some (.read valid pm25 pm10) => if valid then .readings pm25 pm10 else .unavailable
  | some (.ingest _ _ _ _) => .unavailable
  | some (.encode _) => .unavailable
  | some .reset => .unavailable
  | none => .unavailable

/-- A poll of the Reading, at any time and from any thread (R212, row reading poll). -/
def poll (a : Agent) (h : Session) : SessionResult :=
  goOn (issue a 0x40#8 [] h) fun h' => .next { h' with polls := h'.polls ++ [(a, lastPollResult h'.block)] }

/-- The settle pause: at least SETTLE_DELAY, by an extra time of the host's own choice (R234). -/
def settle (extra : Nat) (rest : List HostTask) (h : Session) : SessionResult :=
  .next (continueCall rest (note (.waited (h.settleDelay + extra)) h))

/-- Perform one task of the call in progress, rest being the tasks after it. -/
def performTask (w : WriteOutcome) (extra : Nat) (rest : List HostTask) (h : Session) : HostTask → SessionResult
  | .reset => goOn (issue .ingestAgent 0xC0#8 [] h) fun h' => .next (continueCall rest h')
  | .send sel => sendCommand sel w rest h
  | .settle => settle extra rest h
  | .setStarted b => .next (continueCall rest { h with started := b })

/-- The tasks of start() (R231): RESET, START, settle, AUTOSEND_ON. -/
def startPlan : List HostTask := [.reset, .send 0b00#2, .settle, .send 0b10#2, .setStarted true]

/-- The tasks of stop() (R232): STOP, settle, AUTOSEND_OFF, whether or not started, and no RESET. That the session counts
as not started afterwards is DEDUCED (entry 7), unsafe. -/
def stopPlan : List HostTask := [.send 0b01#2, .settle, .send 0b11#2, .setStarted false]

/-- The tasks of a call; a start() when already started has none (R233). -/
def planOf (started : Bool) : HostCall → List HostTask
  | .start => if started then [] else startPlan
  | .stop => stopPlan

/-- The host goes on with its calls by one task, or begins the oldest call waiting. -/
def proceed (w : WriteOutcome) (extra : Nat) (h : Session) : SessionResult :=
  match h.tasks with
  | t :: rest => performTask w extra rest h t
  | [] =>
    match h.waiting with
    | [] => .next h
    | c :: cs => .next (continueCall (planOf h.started c) { h with waiting := cs })

/-- What can happen to a session (R206, R212). Deliveries, polls, single commands and read faults may come at any time,
between the two commands of a pair too. R212 states it of polls and commands; of deliveries R231 (5) leaves it open: DESIGN
CHOICE (entry 14), safe, since a host that delivers nothing there is one of the hosts admitted. -/
inductive HostEvent where
  /-- A caller makes a call. -/
  | call (c : HostCall)
  /-- The host goes on; w says how the transport takes a write, extra how much longer than SETTLE_DELAY a pause lasts. -/
  | proceed (w : WriteOutcome) (extra : Nat)
  /-- The transport delivered newly read bytes. -/
  | deliver (chunk : List Byte)
  /-- An agent polls the Reading. -/
  | poll (a : Agent)
  /-- An agent sends a single command; w says how the transport takes its write. -/
  | command (a : Agent) (sel : BitVec 2) (w : WriteOutcome)
  /-- A transport read fault: no operation of the block is issued because of one (R206). -/
  | transportFault
deriving DecidableEq, Repr

/-- The host's reaction to an event. -/
def hostReact : HostEvent → Session → SessionResult
  | .call c, h => .next { h with waiting := h.waiting ++ [c] }
  | .proceed w extra, h => proceed w extra h
  | .deliver chunk, h => issue .ingestAgent 0x00#8 chunk h
  | .poll a, h => poll a h
  | .command a sel w, h => singleCommand a sel w h
  | .transportFault, h => .next h

/-- The host's reactions to events in order. -/
def hostRun : List HostEvent → Session → SessionResult
  | [], h => .next h
  | e :: es, h => goOn (hostReact e h) (hostRun es)

/-- Did the last operation return no event? -/
def lastIsQuiet (s : State) : Bool :=
  match s.responses.getLast? with
  | none => true
  | some r => r.event == some .none

/-- Issue DRAIN until one returns NONE, at most fuel times (R235, R239). -/
def drainUntilQuiet : Nat → State → StepResult
  | 0, s => .next s
  | fuel + 1, s =>
    match exec Instr.drain s with
    | .next t => if lastIsQuiet t then .next t else drainUntilQuiet fuel t
    | .fault r => .fault r
    | .refused r => .refused r

/-- The host discipline of R239 for one chunk: INGEST it, and after an event issue DRAIN until one returns NONE. -/
def deliverAndDrain (chunk : List Byte) (s : State) : StepResult :=
  match exec (.ingest chunk) s with
  | .next t => if lastIsQuiet t then .next t else drainUntilQuiet (t.len + 1) t
  | .fault r => .fault r
  | .refused r => .refused r

/-- The host discipline of R239 for a stream of chunks. -/
def deliverAllDrained : List (List Byte) → State → StepResult
  | [], s => .next s
  | c :: cs, s =>
    match deliverAndDrain c s with
    | .next t => deliverAllDrained cs t
    | .fault r => .fault r
    | .refused r => .refused r

end Sys2Proof.Machine
end

