-- ==== Sys2Proof/Safety.lean ====
section
/-! DEFINITION. What claims about the block are made in terms of: the architectural tuple (spec R20), the invariants
(R33), the Reading the responses account for (R33, R141), runs (R242), and the host's duties (R211, R239). -/

namespace Sys2Proof.Machine

/-- Two states with the same architectural tuple (R20). -/
abbrev sameBlock (s t : State) : Prop :=
  t.buf = s.buf ∧ t.st = s.st ∧ t.rdValid = s.rdValid ∧ t.rdPm25 = s.rdPm25 ∧ t.rdPm10 = s.rdPm10

/-- The data marker in front: 0x42, then 0x4D (R68). A buffer of fewer than two bytes never shows it, since neither
byte is 0x00. -/
abbrev markerInFront (b : List Byte) : Prop := b.getD 0 0 = 0x42#8 ∧ b.getD 1 0 = 0x4D#8

/-- The checksum test in plain arithmetic: the sum of bytes 0 to 29, low 16 bits, against bytes 30 and 31 read
big-endian (R110, R111). -/
abbrev sumMatches (f : List Byte) : Prop :=
  ((f.take 30).map BitVec.toNat).sum % 65536 = (f.getD 30 0).toNat * 256 + (f.getD 31 0).toNat

/-- A whole, valid data frame (R69). -/
abbrev validFrame (f : List Byte) : Prop := f.length = 32 ∧ markerInFront f ∧ sumMatches f

/-- R33 (a) and (b): the capacity is never exceeded; in ReadingFrame the buffer holds 2 to 31 bytes with the data
marker in front. -/
abbrev BufferInv (s : State) : Prop :=
  s.buf.length ≤ 512 ∧
    (s.st = .readingFrame →
      2 ≤ s.buf.length ∧ s.buf.length ≤ 31 ∧ markerInFront s.buf)

/-- The Reading after one more response: FRAME_VALID sets it, RESET makes it unavailable, nothing else changes it
(R31, R114, R170). -/
def readingAfter (r : Bool × Word16 × Word16) : Response → Bool × Word16 × Word16
  | .ingest .frameValid _ p25 p10 => (true, p25, p10)
  | .ingest .none _ _ _ => r
  | .ingest .ignored _ _ _ => r
  | .ingest .ackOk _ _ _ => r
  | .ingest .ackError _ _ _ => r
  | .ingest .frameInvalid _ _ _ => r
  | .read _ _ _ => r
  | .encode _ => r
  | .reset => (false, 0x0000#16, 0x0000#16)

/-- The Reading a run's responses account for: the fields of the last FRAME_VALID since the last RESET, or
unavailable (R33 (c) and (d), R141). -/
def readingOf (responses : List Response) : Bool × Word16 × Word16 :=
  responses.foldl readingAfter (false, 0x0000#16, 0x0000#16)

/-- R33 (c) and (d): the Reading held is the one the responses account for. -/
abbrev ReadingInv (s : State) : Prop := (s.rdValid, s.rdPm25, s.rdPm10) = readingOf s.responses

/-- Is this the one ingest agent? -/
def isIngestAgent : Agent → Bool
  | .ingestAgent => true
  | .reader _ => false
  | .commandAgent => false

/-- The operations an agent may issue (R211). INGEST and RESET are the one ingest agent's ("it issues every INGEST and
every RESET"). ENCODE may be issued by any agent (R150). READ may be issued by every agent too: R211 (b) does not say that
only readers may, and R212 lets the host issue it from any thread; DESIGN CHOICE (entry 9), safe. Markers are no
requests: they come in the stream. -/
def mayIssue (a : Agent) : Instr → Bool
  | .ingest _ => isIngestAgent a
  | .read => true
  | .encodeStart => true
  | .encodeStop => true
  | .encodeAutosendOn => true
  | .encodeAutosendOff => true
  | .reset => isIngestAgent a
  | .markerData => false
  | .markerAckOk => false
  | .markerAckError => false
  | .markerOther _ => false

/-- A request that keeps R63 and R211: its word spells an operation that its issuer may issue. -/
def dutiful (r : Request) : Bool :=
  match decodeRequest r.word r.data with
  | none => false
  | some i => mayIssue r.issuer i

/-- A state a run of the block passes through: no request of it was refused (R242). -/
abbrev inRun (s : State) : Prop := s.refusalMark = none

/-- Perform operations one after another, in order (R49, R242). -/
def performAll : List Instr → State → StepResult
  | [], s => .next s
  | i :: is, s =>
    match exec i s with
    | .next t => performAll is t
    | .fault r => .fault r
    | .refused r => .refused r

/-- A chunk that an INGEST takes without refusal and without overflow (R207, R101). -/
abbrev fits (chunk : List Byte) (s : State) : Prop :=
  chunk.length ≤ s.maxChunk ∧ s.buf.length + chunk.length ≤ 512

/-- A chunk that cannot overflow a drained block: at most CAP - 31 bytes (R239). -/
abbrev modestChunk (chunk : List Byte) : Prop := chunk.length ≤ 481

/-- The bytes of a session's writes that the transport took, in order. How many bytes of a failed write reached the
device is beyond the transport (R4 (a)): they are not counted, DESIGN CHOICE (entry 13), unsafe for a claim about the line. -/
def bytesWritten : List HostAct → List Byte
  | [] => []
  | .wrote bs :: rest => bs ++ bytesWritten rest
  | .writeFailed _ :: rest => bytesWritten rest
  | .waited _ :: rest => bytesWritten rest

/-- The events that come from outside a call: they may fall anywhere among its tasks. -/
def isArrival : HostEvent → Bool
  | .call _ => false
  | .proceed _ _ => false
  | .deliver _ => true
  | .poll _ => true
  | .command _ _ _ => true
  | .transportFault => true

/-- The four bytes of a command (R150, R151). -/
def bytesOf (sel : BitVec 2) : List Byte := commandBytes (commandFrame sel)

/-- The writes of the single commands among some host events, oldest first. -/
def commandActs : List HostEvent → List HostAct
  | [] => []
  | .command _ sel w :: es => writeAct w (bytesOf sel) :: commandActs es
  | .call _ :: es => commandActs es
  | .proceed _ _ :: es => commandActs es
  | .deliver _ :: es => commandActs es
  | .poll _ :: es => commandActs es
  | .transportFault :: es => commandActs es

/-- A trace made up of a call's own acts and of the writes of single commands: every act once, and each kind in its own
order. -/
structure Interleaved (own commands trace : List HostAct) : Prop where
  acts : trace.Perm (own ++ commands)
  own : own.Sublist trace
  commands : commands.Sublist trace

/-- What a run of host events holds besides arrivals. -/
def ownEvents (es : List HostEvent) : List HostEvent := es.filter fun e => !isArrival e

/-- A start() carried out with no transport fault: the call, its beginning, and its five tasks. -/
def startEvents (extra : Nat) : List HostEvent := .call .start :: List.replicate 6 (.proceed .accepted extra)

/-- A stop() carried out with no transport fault: the call, its beginning, and its four tasks. -/
def stopEvents (extra : Nat) : List HostEvent := .call .stop :: List.replicate 5 (.proceed .accepted extra)

/-- The writes and the wait of a pair of commands, in order. -/
def pairTrace (settleDelay extra : Nat) (first second : List Byte) : List HostAct :=
  [.wrote first, .waited (settleDelay + extra), .wrote second]

/-- No call is in progress and none waits. -/
abbrev noCall (h : Session) : Prop := h.tasks = [] ∧ h.waiting = []

/-- Is this act a wait? -/
def isWait : HostAct → Bool
  | .waited _ => true
  | .wrote _ => false
  | .writeFailed _ => false

/-- Before the settle pause of a pair that start() or stop() writes, the pair's first command was written, with no wait
since; before the second command, the host's last wait was at least SETTLE_DELAY, and before it, with no other wait between,
the first command was written (R234). Single commands may stand anywhere (R212). -/
structure PairInv (h : Session) (first : List Byte) (second : BitVec 2) (started : Bool) : Prop where
  beforePause : h.tasks = [.settle, .send second, .setStarted started] →
    ∃ pre post, h.trace = pre ++ .wrote first :: post ∧ ∀ a ∈ post, isWait a = false
  beforeSecond : h.tasks = [.send second, .setStarted started] →
    ∃ pre mid d post, h.trace = pre ++ .wrote first :: (mid ++ .waited d :: post) ∧ h.settleDelay ≤ d ∧
      ∀ a ∈ mid ++ post, isWait a = false

/-- What holds between any two host events: the tasks left are the end of a plan, and the pairs of start() and stop() keep
R234, when the transport faults too, because the rest of the call is then dropped (entry 13). A pair that single commands
spell is not covered (entry 15). -/
structure SettleInv (h : Session) : Prop where
  plan : h.tasks <:+ startPlan ∨ h.tasks <:+ stopPlan
  startPair : PairInv h [0x68#8, 0x01#8, 0x01#8, 0x96#8] 0b10#2 true
  stopPair : PairInv h [0x68#8, 0x01#8, 0x02#8, 0x95#8] 0b11#2 false

end Sys2Proof.Machine
end

