-- ==== Sys2Proof/Certificates/Slice0/Obligations.lean ====
section
/-! DEFINITION. The statements for the provers, from the numbered rules of spec/. A docstring that names a decision D<n>
or a [derived] rule says that the statement rests on the spec's own choice or inference (92_eei_decisions.md). -/

open Sys2Proof Sys2Proof.Machine

/-! ### Encodings -/

/-- Decoding what the encoder writes gives the instruction back, for every well-formed instruction (30_encoding.md
sections 1 and 4; the request word is decision D2). -/
def Obligations.DecodeOfEncodeIsTheInstruction : Prop :=
  ∀ i : Instr, i.wf = true → decode (encode i) = some i

/-- Words written out from the spec's tables decode to what they stand for, one of each family (R61, R62, R68; D2, D11). -/
def Obligations.WrittenOutWordsDecode : Prop :=
  decode (.request 0b00000000#8 [0x42#8, 0x4D#8]) = some (.ingest [0x42#8, 0x4D#8]) ∧
  decode (.request 0b01000000#8 []) = some .read ∧
  decode (.request 0b10000000#8 []) = some .encodeStart ∧
  decode (.request 0b10000010#8 []) = some .encodeAutosendOn ∧
  decode (.request 0b11000000#8 []) = some .reset ∧
  decode (.marker 0b01000010#8 0b01001101#8) = some .markerData ∧
  decode (.marker 0b01001101#8 0b01000010#8) = some (.markerOther 0b0100110101000010#16)

/-- Of the 256 request words exactly seven spell an operation (R63; D3). That a READ, ENCODE or RESET word does so whatever
data bytes come with it is the model's choice (entry 5); the spec refuses them only for the word (41_read.md, 42_encode.md,
43_reset.md). -/
def Obligations.ExactlySevenRequestWordsAreLegal : Prop :=
  ∀ (w : Byte) (data : List Byte), (decodeRequest w data).isSome = true ↔
    w = 0x00#8 ∨ w = 0x40#8 ∨ w = 0x80#8 ∨ w = 0x81#8 ∨ w = 0x82#8 ∨ w = 0x83#8 ∨ w = 0xC0#8

/-- Every 16-bit marker is exactly one row of the marker map, by its two bytes in stream order (R68, R42). -/
def Obligations.MarkerMapRows : Prop :=
  ∀ a b : Byte,
    (decode (.marker a b) = some .markerData ↔ a = 0x42#8 ∧ b = 0x4D#8) ∧
    (decode (.marker a b) = some .markerAckOk ↔ a = 0xA5#8 ∧ b = 0xA5#8) ∧
    (decode (.marker a b) = some .markerAckError ↔ a = 0x96#8 ∧ b = 0x96#8) ∧
    (decode (.marker a b) ≠ some .markerData → decode (.marker a b) ≠ some .markerAckOk →
      decode (.marker a b) ≠ some .markerAckError → ∃ m, decode (.marker a b) = some (.markerOther m) ∧
        m.toNat = a.toNat * 256 + b.toNat)

/-! ### The step -/

/-- A step performs the oldest pending request: it runs the instruction that request decodes to, in the state with
that request taken off (R47, R49; D1; the request list: entry 2; data bytes with a READ, ENCODE or RESET: entry 5). -/
def Obligations.StepRunsTheDecodedRequest : Prop :=
  ∀ (s : State) (r : Request) (rest : List Request) (i : Instr),
    s.requests = r :: rest → decodeRequest r.word r.data = some i →
    step s = exec i { s with requests := rest }

/-- A step on a DRAIN, in Idle with two bytes or more, runs the marker decoded from the first two bytes of the buffer
(R68, R73). -/
def Obligations.DrainRunsTheFrontMarker : Prop :=
  ∀ (s : State) (r : Request) (rest : List Request) (m : Instr),
    s.requests = r :: rest → r.word = 0x00#8 → r.data = [] →
    s.st = .idle → 2 ≤ s.buf.length → s.buf.length ≤ 512 →
    decode (.marker (s.buf.getD 0 0) (s.buf.getD 1 0)) = some m →
    step s = exec m { s with requests := rest }

/-- An INGEST that fits, in Idle with two bytes or more after the append, runs the decoded front marker (R68, R102). -/
def Obligations.IngestRunsTheFrontMarker : Prop :=
  ∀ (c : List Byte) (s : State) (m : Instr),
    fits c s → s.st = .idle → 2 ≤ (s.buf ++ c).length →
    decode (.marker ((s.buf ++ c).getD 0 0) ((s.buf ++ c).getD 1 0)) = some m →
    exec (.ingest c) s = exec m { s with buf := s.buf ++ c }

/-- A request word that spells no operation is refused: no change of the block's state, no response, and the refusal
mark set (R63, R207; D3; that the first reason is kept is entry 4). -/
def Obligations.IllegalWordIsRefused : Prop :=
  ∀ (s : State) (r : Request) (rest : List Request),
    s.requests = r :: rest →
    r.word ∉ [0x00#8, 0x40#8, 0x80#8, 0x81#8, 0x82#8, 0x83#8, 0xC0#8] →
    step s = .next { s with requests := rest, refusalMark := s.refusalMark.or (some (.illegalWord r.word)) }

/-- With no request pending the state persists (entry 2 of the log, from R216 and R242). -/
def Obligations.NoRequestNoChange : Prop :=
  ∀ s : State, s.requests = [] → step s = .next s

/-- The block never stops: every operation answers a next state (60_exceptions.md section 1, 70_reset_and_hazards.md
section 5; D20, D25). That a step does so too when its request is refused (the machine goes on: entry 4) or when none is
pending (entry 2), and a marker instruction in any state (entry 8), is the model's choice. -/
def Obligations.EveryStepAnswersANextState : Prop :=
  (∀ s : State, ∃ t, step s = .next t) ∧ ∀ (i : Instr) (s : State), ∃ t, exec i s = .next t

/-- A request word placed by withFetchWord is the next one run, on the state it was placed in (entry 6). -/
def Obligations.PlacedRequestWordRunsNext : Prop :=
  ∀ (s : State) (w : Nat) (i : Instr), decodeTableWord 8 w = some i → step (s.withFetchWord 8 w) = exec i s

/-- A marker placed by withFetchWord is the next one run, on the state with its two bytes in front and st Idle (entry 6). -/
def Obligations.PlacedMarkerRunsNext : Prop :=
  ∀ (s : State) (m : Word16) (i : Instr), s.buf.length ≤ 512 → decodeTableWord 16 m.toNat = some i →
    step (s.withFetchWord 16 m.toNat) =
      exec i { s with buf := m.extractLsb' 8 8 :: m.extractLsb' 0 8 :: s.buf.drop 2, st := .idle }

/-! ### INGEST and the markers -/

/-- Overflow: buffer and chunk are discarded, st becomes Idle, there is no event and ovf is 1; nothing else changes
(40_ingest.md section 2; D5, D8). -/
def Obligations.OverflowDiscardsEverything : Prop :=
  ∀ (c : List Byte) (s : State), c.length ≤ s.maxChunk → 512 < s.buf.length + c.length →
    exec (.ingest c) s = .next { s with
      buf := [], st := .idle, responses := s.responses ++ [.ingest .none true 0x0000#16 0x0000#16] }

/-- An INGEST with n above MAX_CHUNK is refused, whatever the buffer holds: no change but the refusal mark
(60_exceptions.md section 3; D16; that the first reason is kept is entry 4). -/
def Obligations.LongChunkIsRefused : Prop :=
  ∀ (c : List Byte) (s : State), s.maxChunk < c.length →
    exec (.ingest c) s = .next { s with refusalMark := s.refusalMark.or (some (.chunkTooLong c.length)) }

/-- R103: with fewer than two bytes after the append the operation ends with no event and no further change; under
R33 (b) this happens only in Idle. -/
def Obligations.TooFewBytesEndWithNoEvent : Prop :=
  ∀ (c : List Byte) (s : State), fits c s → (s.buf ++ c).length < 2 →
    (∃ r : Response, r.event = some .none ∧
      exec (.ingest c) s = .next { s with buf := s.buf ++ c, responses := s.responses ++ [r] }) ∧
    (BufferInv s → s.st = .idle)

/-- R105: the marker 0xA5A5 in Idle clears the whole buffer, keeps Idle, emits ACK_OK and leaves the Reading; MARKER_ACK_OK
is what the INGEST runs. -/
def Obligations.AckOkMarkerClearsTheBuffer : Prop :=
  ∀ (c : List Byte) (s : State), fits c s → s.st = .idle →
    (s.buf ++ c).getD 0 0 = 0xA5#8 → (s.buf ++ c).getD 1 0 = 0xA5#8 →
    ∃ r : Response, r.event = some .ackOk ∧
      exec (.ingest c) s = .next { s with buf := [], st := .idle, responses := s.responses ++ [r] } ∧
      exec .markerAckOk { s with buf := s.buf ++ c } =
        .next { s with buf := [], st := .idle, responses := s.responses ++ [r] }

/-- R106: the marker 0x9696 in Idle clears the whole buffer, keeps Idle, emits ACK_ERROR and leaves the Reading;
MARKER_ACK_ERROR is what the INGEST runs. -/
def Obligations.AckErrorMarkerClearsTheBuffer : Prop :=
  ∀ (c : List Byte) (s : State), fits c s → s.st = .idle →
    (s.buf ++ c).getD 0 0 = 0x96#8 → (s.buf ++ c).getD 1 0 = 0x96#8 →
    ∃ r : Response, r.event = some .ackError ∧
      exec (.ingest c) s = .next { s with buf := [], st := .idle, responses := s.responses ++ [r] } ∧
      exec .markerAckError { s with buf := s.buf ++ c } =
        .next { s with buf := [], st := .idle, responses := s.responses ++ [r] }

/-- R107: any other marker in Idle clears the whole buffer, a marker further in included, keeps Idle, emits IGNORED and
leaves the Reading; MARKER_OTHER is what the INGEST runs. -/
def Obligations.OtherMarkerClearsTheBuffer : Prop :=
  ∀ (c : List Byte) (s : State) (m : Word16), fits c s → s.st = .idle → 2 ≤ (s.buf ++ c).length →
    m.toNat = ((s.buf ++ c).getD 0 0).toNat * 256 + ((s.buf ++ c).getD 1 0).toNat →
    m ≠ 0x424D#16 → m ≠ 0xA5A5#16 → m ≠ 0x9696#16 →
    ∃ r : Response, r.event = some .ignored ∧
      exec (.ingest c) s = .next { s with buf := [], st := .idle, responses := s.responses ++ [r] } ∧
      exec (.markerOther m) { s with buf := s.buf ++ c } =
        .next { s with buf := [], st := .idle, responses := s.responses ++ [r] }

/-- R108: in ReadingFrame with fewer than 32 bytes the operation ends with no event; buffer and st keep their values. -/
def Obligations.ShortFrameAwaitsMoreBytes : Prop :=
  ∀ (c : List Byte) (s : State), fits c s → s.st = .readingFrame → (s.buf ++ c).length < 32 →
    ∃ r : Response, r.event = some .none ∧
      exec (.ingest c) s = .next { s with buf := s.buf ++ c, responses := s.responses ++ [r] }

/-- The data marker in Idle with fewer than 32 bytes held: ReadingFrame, no event, the buffer kept (40_ingest.md
section 4; D6 for going on in the same operation, D4 for the response's fields). -/
def Obligations.DataMarkerCommitsToAFrame : Prop :=
  ∀ (c : List Byte) (s : State), fits c s → s.st = .idle → markerInFront (s.buf ++ c) → (s.buf ++ c).length < 32 →
    exec (.ingest c) s = .next { s with
      buf := s.buf ++ c, st := .readingFrame,
      responses := s.responses ++ [.ingest .none false 0x0000#16 0x0000#16] } ∧
    exec .markerData { s with buf := s.buf ++ c } = .next { s with
      buf := s.buf ++ c, st := .readingFrame,
      responses := s.responses ++ [.ingest .none false 0x0000#16 0x0000#16] }

/-- A whole frame whose sum matches: the three Reading fields become the frame's big-endian fields, the same fields are
in the response, the lookahead stays, st is Idle; in the operation that saw the marker too (40_ingest.md sections 6
to 9; D6, D9, D12). -/
def Obligations.ValidFrameUpdatesTheReading : Prop :=
  ∀ (c : List Byte) (s : State), fits c s →
    (s.st = .readingFrame ∨ s.st = .idle ∧ markerInFront (s.buf ++ c)) →
    32 ≤ (s.buf ++ c).length → sumMatches (s.buf ++ c) →
    exec (.ingest c) s = .next { s with
      buf := (s.buf ++ c).drop 32, st := .idle, rdValid := true,
      rdPm25 := (s.buf ++ c).getD 6 0 ++ (s.buf ++ c).getD 7 0,
      rdPm10 := (s.buf ++ c).getD 8 0 ++ (s.buf ++ c).getD 9 0,
      responses := s.responses ++ [.ingest .frameValid false
        ((s.buf ++ c).getD 6 0 ++ (s.buf ++ c).getD 7 0) ((s.buf ++ c).getD 8 0 ++ (s.buf ++ c).getD 9 0)] }

/-- A whole frame whose sum does not match: FRAME_INVALID, the Reading kept, the 32 bytes gone, the lookahead kept, st
Idle (40_ingest.md sections 6, 7 and 9; D6, D9, D4 for the response's fields). -/
def Obligations.InvalidFrameKeepsTheReading : Prop :=
  ∀ (c : List Byte) (s : State), fits c s →
    (s.st = .readingFrame ∨ s.st = .idle ∧ markerInFront (s.buf ++ c)) →
    32 ≤ (s.buf ++ c).length → ¬ sumMatches (s.buf ++ c) →
    exec (.ingest c) s = .next { s with
      buf := (s.buf ++ c).drop 32, st := .idle,
      responses := s.responses ++ [.ingest .frameInvalid false 0x0000#16 0x0000#16] }

/-- MARKER_DATA goes on as an INGEST in ReadingFrame that adds nothing would: with 2 to 31 bytes held it waits in
ReadingFrame, with a whole frame held it extracts one (40_ingest.md section 4; D6). That it does so in any state, Idle with
the marker in front or not, is the model's choice (entry 8). -/
def Obligations.MarkerDataGoesOnToTheFrame : Prop :=
  ∀ s : State, 2 ≤ s.buf.length → s.buf.length ≤ 512 →
    ∃ t, exec .markerData s = .next t ∧ exec (.ingest []) { s with st := .readingFrame } = .next t ∧
      (s.buf.length < 32 → t.st = .readingFrame ∧ t.buf = s.buf) ∧
      (32 ≤ s.buf.length → t.st = .idle ∧ t.buf = s.buf.drop 32)

/-- What every INGEST that is not refused leaves, whichever path it takes: one response, its ovf exactly on overflow,
no event on overflow, zero fields but on FRAME_VALID, the Reading changed only on FRAME_VALID and then to the
response's fields; pending requests, MAX_CHUNK and the refusal mark unchanged (30_encoding.md section 2; D4, D5; the
model's own fields: entries 1, 2, 3 and 4). -/
def Obligations.IngestResponseAndFrame : Prop :=
  ∀ (c : List Byte) (s t : State), c.length ≤ s.maxChunk → exec (.ingest c) s = .next t →
    t.requests = s.requests ∧ t.maxChunk = s.maxChunk ∧ t.refusalMark = s.refusalMark ∧
    ∃ evt ovf p q, t.responses = s.responses ++ [.ingest evt ovf p q] ∧
      (ovf = true ↔ 512 < s.buf.length + c.length) ∧ (ovf = true → evt = .none) ∧
      (evt ≠ .frameValid → p = 0x0000#16 ∧ q = 0x0000#16 ∧
        t.rdValid = s.rdValid ∧ t.rdPm25 = s.rdPm25 ∧ t.rdPm10 = s.rdPm10) ∧
      (evt = .frameValid → t.rdValid = true ∧ t.rdPm25 = p ∧ t.rdPm10 = q)

/-- The six event codes of the table are distinct, and none is 110 or 111 (30_encoding.md section 2; D4). -/
def Obligations.EventCodesAreTheTables : Prop :=
  (eventCode .none = 0b000#3 ∧ eventCode .ignored = 0b001#3 ∧ eventCode .ackOk = 0b010#3 ∧
    eventCode .ackError = 0b011#3 ∧ eventCode .frameInvalid = 0b100#3 ∧ eventCode .frameValid = 0b101#3) ∧
  ∀ e : Event, eventCode e ≠ 0b110#3 ∧ eventCode e ≠ 0b111#3

/-! ### READ, ENCODE, RESET -/

/-- READ returns the whole Reading and changes nothing (41_read.md). -/
def Obligations.ReadReturnsTheReading : Prop :=
  ∀ s : State, exec .read s =
    .next { s with responses := s.responses ++ [.read s.rdValid s.rdPm25 s.rdPm10] }

/-- R48: READ never mixes two frames and never shows valid = 1 with fields not written: with valid = 1 both fields
are those of one FRAME_VALID response. ReadingInv is kept by every step (its own statement). -/
def Obligations.ReadIsNeverTorn : Prop :=
  ∀ s : State, ReadingInv s → ∃ v p q,
    exec .read s = .next { s with responses := s.responses ++ [.read v p q] } ∧
    (v = true → ∃ ovf, Response.ingest .frameValid ovf p q ∈ s.responses)

/-- The four ENCODE operations return the four fixed frames and change nothing else (42_encode.md; D10, D11). -/
def Obligations.EncodeReturnsTheFixedFrames : Prop :=
  ∀ s : State,
    exec .encodeStart s = .next { s with
      responses := s.responses ++ [.encode ⟨0x68#8, 0x01#8, 0x01#8, 0x96#8⟩] } ∧
    exec .encodeStop s = .next { s with
      responses := s.responses ++ [.encode ⟨0x68#8, 0x01#8, 0x02#8, 0x95#8⟩] } ∧
    exec .encodeAutosendOn s = .next { s with
      responses := s.responses ++ [.encode ⟨0x68#8, 0x01#8, 0x40#8, 0x57#8⟩] } ∧
    exec .encodeAutosendOff s = .next { s with
      responses := s.responses ++ [.encode ⟨0x68#8, 0x01#8, 0x20#8, 0x77#8⟩] }

/-- Every command checksum makes the frame's bytes sum to 0 modulo 0x100, for any first three bytes (42_encode.md; D10). -/
def Obligations.CommandChecksumCompletesTheSum : Prop :=
  ∀ c0 c1 c2 : Byte, (c0.toNat + c1.toNat + c2.toNat + (commandChecksum c0 c1 c2).toNat) % 0x100 = 0

/-- RESET returns every piece of the block's state to its reset value, and completes (43_reset.md; D14, D15). Of the
model's own fields, the pending requests (entry 2) and MAX_CHUNK (entry 1) stay. That the refusal mark stays under RESET is
the model's choice (entry 4): R207 keeps it for the rest of the run and does not speak of RESET. -/
def Obligations.ResetReturnsEverything : Prop :=
  ∀ s : State, exec .reset s = .next { s with
    buf := [], st := .idle, rdValid := false, rdPm25 := 0x0000#16, rdPm10 := 0x0000#16,
    responses := s.responses ++ [.reset] }

/-- Power-on, for every MAX_CHUNK: empty buffer, Idle, Reading unavailable, fields 0x0000 (10_state.md section 7; D14);
nothing pending, nothing returned, no refusal (entries 2, 3 and 4). State.reset is one of them. -/
def Obligations.PowerOnState : Prop :=
  (∀ n : Nat, (State.powerOn n).buf = [] ∧ (State.powerOn n).st = .idle ∧ (State.powerOn n).rdValid = false ∧
    (State.powerOn n).rdPm25 = 0x0000#16 ∧ (State.powerOn n).rdPm10 = 0x0000#16 ∧ (State.powerOn n).maxChunk = n ∧
    (State.powerOn n).requests = [] ∧ (State.powerOn n).responses = [] ∧ (State.powerOn n).refusalMark = none) ∧
  ∃ n, core.reset = State.powerOn n

/-- READ, ENCODE and RESET done twice leave the same block state and return the same response as done once (20_memory.md
section 5; D14 for RESET's values). -/
def Obligations.TwiceIsOnceForReadEncodeReset : Prop :=
  ∀ i ∈ [Instr.read, .encodeStart, .encodeStop, .encodeAutosendOn, .encodeAutosendOff, .reset], ∀ s : State,
    ∃ t u r, exec i s = .next t ∧ exec i t = .next u ∧ sameBlock t u ∧
      t.responses = s.responses ++ [r] ∧ u.responses = s.responses ++ [r, r]

/-! ### Invariants -/

/-- R33 (a) and (b) hold at power-on, for every MAX_CHUNK ([derived] in the spec). -/
def Obligations.BufferInvAtPowerOn : Prop := (∀ n : Nat, BufferInv (State.powerOn n)) ∧ BufferInv core.reset

/-- Every step keeps R33 (a) and (b): at most 512 bytes, and in ReadingFrame 2 to 31 bytes with the data marker in
front ([derived] in the spec). -/
def Obligations.EveryStepKeepsBufferInv : Prop :=
  ∀ s t : State, BufferInv s → step s = .next t → BufferInv t

/-- R33 (c) and (d) hold at power-on, for every MAX_CHUNK ([derived] in the spec). -/
def Obligations.ReadingInvAtPowerOn : Prop := (∀ n : Nat, ReadingInv (State.powerOn n)) ∧ ReadingInv core.reset

/-- Every step keeps R33 (c) and (d): the Reading held is the fields of the last FRAME_VALID returned since the last
RESET, or unavailable when there is none ([derived] in the spec). -/
def Obligations.EveryStepKeepsReadingInv : Prop :=
  ∀ s t : State, ReadingInv s → step s = .next t → ReadingInv t

/-- R34: an INGEST leaves Idle with two bytes or more only when it extracted a frame ([derived] in the spec). -/
def Obligations.IdleWithBytesOnlyAfterExtraction : Prop :=
  ∀ (c : List Byte) (s t : State), c.length ≤ s.maxChunk → exec (.ingest c) s = .next t →
    t.st = .idle → 2 ≤ t.buf.length →
    ∃ r : Response, t.responses = s.responses ++ [r] ∧ (r.event = some .frameValid ∨ r.event = some .frameInvalid)

/-- R31: rd_valid goes from 1 to 0 only by RESET: not by an invalid frame, an overflow, an acknowledgement, an ignored
marker, a refused request or an idle step. -/
def Obligations.OnlyResetMakesTheReadingUnavailable : Prop :=
  ∀ s t : State, step s = .next t → s.rdValid = true → t.rdValid = false →
    ∃ r rest, s.requests = r :: rest ∧ decodeRequest r.word r.data = some .reset

/-- Only INGEST and RESET write the block's state; READ, ENCODE, a refused word and an idle step leave all of it
(10_state.md sections 2 to 4, 20_memory.md section 5; the idle step: entry 2). -/
def Obligations.OnlyIngestAndResetWriteTheBlock : Prop :=
  ∀ s t : State, step s = .next t → ¬ sameBlock s t →
    ∃ r rest, s.requests = r :: rest ∧
      (decodeRequest r.word r.data = some (.ingest r.data) ∨ decodeRequest r.word r.data = some .reset)

/-! ### Agents, order, runs -/

/-- An agent other than the ingest agent, issuing what it may (READ or ENCODE; entry 9), changes nothing of the block's
state (60_exceptions.md section 7; D15, D18). -/
def Obligations.OnlyTheIngestAgentWrites : Prop :=
  ∀ (s t : State) (r : Request) (rest : List Request), s.requests = r :: rest → dutiful r = true →
    r.issuer ≠ .ingestAgent → step s = .next t → sameBlock s t

/-- No operation checks who issues it: the same request from any two agents is the same step (60_exceptions.md section
6; D20). -/
def Obligations.IssuerIsNeverLookedAt : Prop :=
  ∀ (s : State) (a b : Agent) (w : Byte) (data : List Byte) (rest : List Request),
    step { s with requests := ⟨a, w, data⟩ :: rest } = step { s with requests := ⟨b, w, data⟩ :: rest }

/-- A READ ordered before an INGEST returns the Reading wholly from before it, one ordered after it the Reading wholly
from after it, and both orders leave the block the same; after FRAME_VALID the READ has that frame's fields
(20_memory.md section 6; D18). -/
def Obligations.ReadInEitherOrder : Prop :=
  ∀ (c : List Byte) (s : State), c.length ≤ s.maxChunk → ∃ (t : State) (r : Response),
    exec (.ingest c) s = .next t ∧ t.responses = s.responses ++ [r] ∧
    performAll [.read, .ingest c] s =
      .next { t with responses := s.responses ++ [.read s.rdValid s.rdPm25 s.rdPm10, r] } ∧
    performAll [.ingest c, .read] s =
      .next { t with responses := s.responses ++ [r, .read t.rdValid t.rdPm25 t.rdPm10] } ∧
    (r.event = some .frameValid → r = .ingest .frameValid false t.rdPm25 t.rdPm10 ∧ t.rdValid = true)

/-- The refusal mark, once set, is kept by every step, RESET included, with the reason it was set for: a state of a run
(R242: no request of it was refused) comes only from a state of a run (60_exceptions.md section 3; D3, D16, D25;
entry 4). -/
def Obligations.RefusalMarkIsKept : Prop :=
  ∀ s t : State, step s = .next t →
    (∀ m : RefuseReason, s.refusalMark = some m → t.refusalMark = some m) ∧ (inRun t → inRun s)

/-- A step with a request pending takes that request off, never writes MAX_CHUNK, and either returns exactly one response
and leaves the refusal mark, or returns none, leaves the block's state and has the mark set (30_encoding.md section 2,
60_exceptions.md section 3; D3, D16; the model's own fields and that the machine goes on: entries 2, 3 and 4). -/
def Obligations.OneResponseOrARefusal : Prop :=
  ∀ (s t : State) (r : Request) (rest : List Request), s.requests = r :: rest → step s = .next t →
    t.requests = rest ∧ t.maxChunk = s.maxChunk ∧
    ((∃ resp, t.responses = s.responses ++ [resp] ∧ t.refusalMark = s.refusalMark) ∨
      (t.responses = s.responses ∧ sameBlock s t ∧ t.refusalMark ≠ none))

/-! ### Derived consequences -/

/-- R121, split invariance: from an empty buffer in Idle, a valid frame delivered in any chunks gives exactly one event,
FRAME_VALID with the frame's fields, at the chunk that brings the length to 32, and ends empty and Idle ([derived] in
the spec). -/
def Obligations.SplitInvarianceOfAValidFrame : Prop :=
  ∀ (s : State) (f : List Byte) (chunks : List (List Byte)),
    s.buf = [] → s.st = .idle → validFrame f → chunks.flatten = f → (∀ c ∈ chunks, c.length ≤ s.maxChunk) →
    ∃ before after : Nat, before + 1 + after = chunks.length ∧
      (chunks.take before).flatten.length < 32 ∧ (chunks.take (before + 1)).flatten.length = 32 ∧
      performAll (chunks.map Instr.ingest) s = .next { s with
        rdValid := true, rdPm25 := f.getD 6 0 ++ f.getD 7 0, rdPm10 := f.getD 8 0 ++ f.getD 9 0,
        responses := s.responses ++ List.replicate before (.ingest .none false 0x0000#16 0x0000#16) ++
          [.ingest .frameValid false (f.getD 6 0 ++ f.getD 7 0) (f.getD 8 0 ++ f.getD 9 0)] ++
          List.replicate after (.ingest .none false 0x0000#16 0x0000#16) }

/-- R122, single-byte corruption: a valid frame with one byte at offset 2 to 31 replaced by another value is
FRAME_INVALID, with one at offset 0 or 1 it is IGNORED; the Reading is unchanged and the buffer empty in both cases
([derived] in the spec). -/
def Obligations.OneCorruptedByteIsNeverAccepted : Prop :=
  ∀ (s : State) (f : List Byte) (i : Nat) (b : Byte),
    s.buf = [] → s.st = .idle → 32 ≤ s.maxChunk → validFrame f → i < 32 → b ≠ f.getD i 0 →
    exec (.ingest (f.set i b)) s = .next { s with responses := s.responses ++
      [.ingest (if i < 2 then .ignored else .frameInvalid) false 0x0000#16 0x0000#16] }

/-- R119: the sum of a 32-byte frame with the data marker lies in 0x008F to 0x1C73, so a checksum field outside that
range never passes ([derived] in the spec). -/
def Obligations.ChecksumSumRange : Prop :=
  ∀ f : List Byte, f.length = 32 → markerInFront f →
    0x008F ≤ frameSum f ∧ frameSum f ≤ 0x1C73 ∧
    ((frameChecksum f).toNat < 0x008F ∨ 0x1C73 < (frameChecksum f).toNat → checksumPasses f = false)

/-- R120: in Idle, bytes that do not show the data marker in front are never accepted as a frame, leave the Reading, and
at most one byte is kept; with at most one byte held before, only a chunk of 512 bytes or more can overflow
([derived] in the spec). -/
def Obligations.NoiseIsDiscarded : Prop :=
  ∀ (c : List Byte) (s t : State), c.length ≤ s.maxChunk → s.st = .idle → ¬ markerInFront (s.buf ++ c) →
    exec (.ingest c) s = .next t →
    t.st = .idle ∧ t.buf.length ≤ 1 ∧ t.rdValid = s.rdValid ∧ t.rdPm25 = s.rdPm25 ∧ t.rdPm10 = s.rdPm10 ∧
    ∃ evt ovf, t.responses = s.responses ++ [.ingest evt ovf 0x0000#16 0x0000#16] ∧ evt ≠ .frameValid ∧
      (ovf = true → s.buf.length ≤ 1 → 512 ≤ c.length)

/-- R239: a DRAIN that returns no event leaves at most 31 bytes, so that the next chunk of at most 481 bytes cannot
overflow ([derived] in the spec). -/
def Obligations.DrainedBlockTakesAModestChunk : Prop :=
  ∀ s t : State, BufferInv s → exec (.ingest []) s = .next t →
    t.responses = s.responses ++ [.ingest .none false 0x0000#16 0x0000#16] →
    t.buf.length ≤ 31 ∧ ∀ c : List Byte, modestChunk c → c.length ≤ t.maxChunk → ∃ u evt p q,
      exec (.ingest c) t = .next u ∧ u.responses = t.responses ++ [.ingest evt false p q]

/-- R239: a DRAIN never overflows, and one that returns an event removes at least two bytes, so draining ends
([derived] in the spec). -/
def Obligations.EventfulDrainRemovesBytes : Prop :=
  ∀ s : State, BufferInv s → ∃ t evt p q, exec (.ingest []) s = .next t ∧
    t.responses = s.responses ++ [.ingest evt false p q] ∧ (evt ≠ .none → t.buf.length + 2 ≤ s.buf.length)

/-- R239: a host that sends chunks of at most 481 bytes, and after every INGEST that returns an event drains until one
DRAIN returns none, never causes an overflow, whatever the chunks hold and however many they are; it is left with at
most 31 bytes held ([derived] in the spec). -/
def Obligations.DisciplinedHostNeverOverflows : Prop :=
  ∀ (chunks : List (List Byte)) (s : State), BufferInv s → s.buf.length ≤ 31 →
    (∀ c ∈ chunks, modestChunk c ∧ c.length ≤ s.maxChunk) →
    ∃ (t : State) (new : List Response), deliverAllDrained chunks s = .next t ∧
      t.responses = s.responses ++ new ∧ (∀ r ∈ new, ∃ evt p q, r = .ingest evt false p q) ∧
      BufferInv t ∧ t.buf.length ≤ 31

/-- R237: from Idle, an INGEST ends in ReadingFrame only by a data marker at the front: the empty buffer and a chunk
that begins 0x42, 0x4D; or the one byte 0x42 and a chunk that begins 0x4D; or the marker in front of the bytes already held
([derived] in the spec). -/
def Obligations.FrameStartsOnlyAtTheFront : Prop :=
  ∀ (c : List Byte) (s t : State), s.st = .idle → exec (.ingest c) s = .next t → t.st = .readingFrame →
    (s.buf = [] ∧ markerInFront c) ∨
    (s.buf = [0x42#8] ∧ c.getD 0 0 = 0x4D#8) ∨
    (2 ≤ s.buf.length ∧ markerInFront s.buf)

/-! ### The host's session -/

/-- start() when not started, with no transport fault on its writes, whatever is delivered, polled or sent as a single
command among its tasks: the two commands are written in order with a wait of at least SETTLE_DELAY between, the caller gets
completion and the session is started; the trace grows by these and by the single commands' writes alone. With nothing
arriving, the block is reset before the first command (60_exceptions.md section 8, 70_reset_and_hazards.md sections 2 and 3;
D10, D14, D15, D21; the pause: entry 10; arrivals in the pair: entry 14; single commands: entry 15, and that the call goes
on when one of them faults: entry 13, inferred). -/
def Obligations.StartWritesTheStartPair : Prop :=
  ∀ (extra : Nat) (h : Session), h.started = false → noCall h →
    (∀ es : List HostEvent, ownEvents es = startEvents extra → ∃ h' new,
      hostRun es h = .next h' ∧ h'.started = true ∧ noCall h' ∧ h'.answers = h.answers ++ [.completed] ∧
      h'.settleDelay = h.settleDelay ∧ h'.trace = h.trace ++ new ∧
      Interleaved (pairTrace h.settleDelay extra
        [0x68#8, 0x01#8, 0x01#8, 0x96#8] [0x68#8, 0x01#8, 0x40#8, 0x57#8]) (commandActs es) new) ∧
    ∃ h', hostRun (startEvents extra) h = .next h' ∧ h'.block = { h.block with
      buf := [], st := .idle, rdValid := false, rdPm25 := 0x0000#16, rdPm10 := 0x0000#16,
      responses := h.block.responses ++ [.reset, .encode ⟨0x68#8, 0x01#8, 0x01#8, 0x96#8⟩,
        .encode ⟨0x68#8, 0x01#8, 0x40#8, 0x57#8⟩] }

/-- start() when started completes and does nothing else: no RESET, no command (70_reset_and_hazards.md section 2; D22). -/
def Obligations.StartWhenStartedDoesNothing : Prop :=
  ∀ (w : WriteOutcome) (extra : Nat) (h : Session), h.started = true → noCall h →
    hostRun [.call .start, .proceed w extra] h = .next { h with answers := h.answers ++ [.completed] }

/-- stop(), started or not, with no transport fault on its writes, whatever is delivered, polled or sent as a single
command among its tasks, writes the stop pair in order with a wait of at least SETTLE_DELAY between; done twice it writes the
same pair twice, with no single command among them the same eight bytes. With nothing arriving, the block's state is left
(60_exceptions.md section 8, 70_reset_and_hazards.md sections 2 and 3; D10, D21, D22; not started afterwards: entry 7; the
pause: entry 10; arrivals in the pair: entry 14; single commands: entry 15, and that the call goes on when one of them
faults: entry 13, inferred). -/
def Obligations.StopTwiceWritesTheSamePair : Prop :=
  ∀ (extra extra' : Nat) (h : Session), noCall h →
    (∀ es es' : List HostEvent, ownEvents es = stopEvents extra → ownEvents es' = stopEvents extra' → ∃ h1 h2 new new',
      hostRun es h = .next h1 ∧ hostRun es' h1 = .next h2 ∧
      h1.started = false ∧ h2.started = false ∧ h2.answers = h.answers ++ [.completed, .completed] ∧
      h1.trace = h.trace ++ new ∧ h2.trace = h1.trace ++ new' ∧
      Interleaved (pairTrace h.settleDelay extra
        [0x68#8, 0x01#8, 0x02#8, 0x95#8] [0x68#8, 0x01#8, 0x20#8, 0x77#8]) (commandActs es) new ∧
      Interleaved (pairTrace h.settleDelay extra'
        [0x68#8, 0x01#8, 0x02#8, 0x95#8] [0x68#8, 0x01#8, 0x20#8, 0x77#8]) (commandActs es') new' ∧
      (commandActs es' = [] → bytesWritten h2.trace = bytesWritten h1.trace ++
        [0x68#8, 0x01#8, 0x02#8, 0x95#8, 0x68#8, 0x01#8, 0x20#8, 0x77#8])) ∧
    ∃ h1 h2, hostRun (stopEvents extra) h = .next h1 ∧ hostRun (stopEvents extra') h1 = .next h2 ∧
      sameBlock h.block h1.block ∧ sameBlock h.block h2.block

/-- A transport fault on a command write is surfaced to the caller and ends that call, not the session: the block's state
and the calls waiting (entry 14) are as before, and ENCODE has returned its frame (60_exceptions.md section 2; D24). Three
clauses are the model's, not the rule's (entry 13): the rest of the call is dropped and the started flag stays, both
inferred, and the bytes of the failed write are not counted as written, a choice. -/
def Obligations.FailedWriteEndsOnlyTheCall : Prop :=
  ∀ (h : Session) (sel : BitVec 2) (rest : List HostTask) (extra : Nat), h.tasks = .send sel :: rest →
    ∃ h' f, hostReact (.proceed .faulted extra) h = .next h' ∧
      h'.answers = h.answers ++ [.transportFault] ∧ h'.tasks = [] ∧ h'.waiting = h.waiting ∧
      h'.started = h.started ∧ h'.settleDelay = h.settleDelay ∧
      h'.trace = h.trace ++ [.writeFailed (commandBytes f)] ∧ bytesWritten h'.trace = bytesWritten h.trace ∧
      h'.block = { h.block with responses := h.block.responses ++ [.encode f] } ∧ f = commandFrame sel

/-- A start() whose second write faults, whatever is delivered, polled or sent as a single command among its tasks: the
first command is written, the pause kept, the second write fails, the fault is surfaced and the session is not started
(60_exceptions.md sections 2 and 8; D10, D21, D24; the pause: entry 10). That the next start() then writes the whole pair,
with its pause, rests on the started flag's staying (70_reset_and_hazards.md section 2; entry 13); arrivals in the pair:
entry 14; single commands: entry 15, and that the call goes on when one of them faults: entry 13, inferred. -/
def Obligations.FailedStartCanBeMadeAgain : Prop :=
  ∀ (extra extra' : Nat) (h : Session), h.started = false → noCall h → ∀ es es' : List HostEvent,
    ownEvents es = .call .start :: (List.replicate 4 (.proceed .accepted extra) ++ [.proceed .faulted extra]) →
    ownEvents es' = startEvents extra' → ∃ h1 h2 new new',
      hostRun es h = .next h1 ∧ h1.started = false ∧ h1.answers = h.answers ++ [.transportFault] ∧
      h1.trace = h.trace ++ new ∧
      Interleaved [.wrote [0x68#8, 0x01#8, 0x01#8, 0x96#8], .waited (h.settleDelay + extra),
        .writeFailed [0x68#8, 0x01#8, 0x40#8, 0x57#8]] (commandActs es) new ∧
      hostRun es' h1 = .next h2 ∧ h2.started = true ∧ h2.answers = h.answers ++ [.transportFault, .completed] ∧
      h2.trace = h1.trace ++ new' ∧
      Interleaved (pairTrace h.settleDelay extra'
        [0x68#8, 0x01#8, 0x01#8, 0x96#8] [0x68#8, 0x01#8, 0x40#8, 0x57#8]) (commandActs es') new'

/-- A session as opened keeps the settle invariant, around any block and for any SETTLE_DELAY (entry 10). -/
def Obligations.SettleInvAtOpening : Prop :=
  ∀ (b : State) (d : Nat), SettleInv (Session.opened b d)

/-- Every host event keeps the settle invariant: whatever calls are made, whatever arrives or is sent as a single command
and however the transport takes the writes, the second command of a pair that start() or stop() writes is sent only when the
first was written and then a wait of at least SETTLE_DELAY was kept (60_exceptions.md section 2, 70_reset_and_hazards.md
section 3; D21; the pause: entry 10; what comes within a call: entry 14). That it is not sent when the write of the first
faulted rests on the model's dropping what is left of the call, inferred from R206 (entry 13). A pair that single commands
spell is not covered (entry 15). -/
def Obligations.EveryHostEventKeepsSettleInv : Prop :=
  ∀ (e : HostEvent) (h h' : Session), SettleInv h → hostReact e h = .next h' → SettleInv h'

/-- At any time and whatever the call in progress, of which they change nothing: a delivery is an INGEST; a poll is a READ
by any agent, and with valid = 0 its reader gets unavailable and no fields; a single command is an ENCODE by any agent and the
write of its bytes in order, its caller told of a transport fault; a transport read fault changes nothing at all
(60_exceptions.md sections 2 and 8, 41_read.md, 42_encode.md; D10, D24; deliveries within a call: entry 14; the started flag
under a single command: entry 15; that every agent may poll: entry 9). When a single command's write faults, that the call in
progress goes on is inferred from R206, and that the write is recorded as failed is a choice (entry 13). -/
def Obligations.HostReactions : Prop :=
  ∀ (h : Session) (c : List Byte) (a : Agent) (sel : BitVec 2) (t : State),
    (exec (.ingest c) h.block = .next t → hostReact (.deliver c) h = .next { h with block := t }) ∧
    (exec .read h.block = .next t → hostReact (.poll a) h = .next { h with
      block := t,
      polls := h.polls ++
        [(a, if h.block.rdValid then .readings h.block.rdPm25 h.block.rdPm10 else .unavailable)] }) ∧
    (∃ f, exec (encodeOfSel sel) h.block = .next { h.block with responses := h.block.responses ++ [.encode f] } ∧
      hostReact (.command a sel .accepted) h = .next { h with
        block := { h.block with responses := h.block.responses ++ [.encode f] },
        trace := h.trace ++ [.wrote [f.c0, f.c1, f.c2, f.c3]],
        commandAnswers := h.commandAnswers ++ [.completed] } ∧
      hostReact (.command a sel .faulted) h = .next { h with
        block := { h.block with responses := h.block.responses ++ [.encode f] },
        trace := h.trace ++ [.writeFailed [f.c0, f.c1, f.c2, f.c3]],
        commandAnswers := h.commandAnswers ++ [.transportFault] }) ∧
    hostReact .transportFault h = .next h
end

