-- ==== Sys2Proof/Laws/Decode.lean ====
section
/-! SUPPORT. The small lemmas of the two decoders and the encoder. -/

namespace Sys2Proof

/-- BE16 as a number (spec R11). -/
theorem be16_toNat (a b : Byte) : (be16 a b).toNat = a.toNat * 256 + b.toNat := by
  have ha := a.isLt
  have hb := b.isLt
  have h : be16 a b = a ++ b := by
    apply BitVec.eq_of_getLsbD_eq
    intro i hi
    simp only [be16, BitVec.getLsbD_or, BitVec.getLsbD_shiftLeft, BitVec.getLsbD_setWidth, BitVec.getLsbD_append]
    by_cases h8 : i < 8
    · simp [h8, hi]
    · have hz : b.getLsbD i = false := BitVec.getLsbD_of_ge b i (by omega)
      simp [h8, hz, hi, show i - 8 < 16 by omega]
  rw [h, BitVec.toNat_append, ← Nat.shiftLeft_add_eq_or_of_lt hb, Nat.shiftLeft_eq]

/-- BE16 is concatenation, the earlier byte on the left. -/
theorem be16_eq_append (a b : Byte) : be16 a b = a ++ b := by
  apply BitVec.eq_of_toNat_eq
  rw [be16_toNat, BitVec.toNat_append, ← Nat.shiftLeft_add_eq_or_of_lt b.isLt, Nat.shiftLeft_eq]

/-- A 16-bit value is BE16 of its high and low bytes: what a stream shows is what it holds. -/
theorem be16_bytes (m : Word16) : be16 (m.extractLsb' 8 8) (m.extractLsb' 0 8) = m := by
  apply BitVec.eq_of_toNat_eq
  rw [be16_toNat]
  have hm := m.isLt
  simp only [BitVec.extractLsb'_toNat, Nat.shiftRight_eq_div_pow]
  omega

/-- BE16 loses nothing: equal fields have equal bytes. -/
theorem be16_inj {a b c d : Byte} (h : be16 a b = be16 c d) : a = c ∧ b = d := by
  have h' := congrArg BitVec.toNat h
  rw [be16_toNat, be16_toNat] at h'
  have := a.isLt; have := b.isLt; have := c.isLt; have := d.isLt
  constructor <;> apply BitVec.eq_of_toNat_eq <;> omega

/-- The data marker is seen exactly when the two front bytes are 0x42 and 0x4D (R68). -/
theorem be16_eq_data_iff {a b : Byte} : be16 a b = 0x424D#16 ↔ a = 0x42#8 ∧ b = 0x4D#8 := by
  constructor
  · intro h
    exact be16_inj (h.trans (by decide : (0x424D#16 : Word16) = be16 0x42#8 0x4D#8))
  · rintro ⟨rfl, rfl⟩; decide

@[simp] theorem classifyMarker_data : classifyMarker 0x424D#16 = .data := by decide
@[simp] theorem classifyMarker_ackOk : classifyMarker 0xA5A5#16 = .ackOk := by decide
@[simp] theorem classifyMarker_ackError : classifyMarker 0x9696#16 = .ackError := by decide

/-- The last row of the marker map matches what the first three do not. -/
theorem classifyMarker_other {m : Word16} (h1 : m ≠ 0x424D#16) (h2 : m ≠ 0xA5A5#16) (h3 : m ≠ 0x9696#16) :
    classifyMarker m = .other := by
  simp [classifyMarker, h1, h2, h3]

/-- Everything the marker map can answer. -/
theorem classifyMarker_cases (m : Word16) :
    (m = 0x424D#16 ∧ classifyMarker m = .data) ∨ (m = 0xA5A5#16 ∧ classifyMarker m = .ackOk) ∨
    (m = 0x9696#16 ∧ classifyMarker m = .ackError) ∨
    ((m ≠ 0x424D#16 ∧ m ≠ 0xA5A5#16 ∧ m ≠ 0x9696#16) ∧ classifyMarker m = .other) := by
  by_cases h1 : m = 0x424D#16
  · subst h1; simp
  by_cases h2 : m = 0xA5A5#16
  · subst h2; simp
  by_cases h3 : m = 0x9696#16
  · subst h3; simp
  simp [h1, h2, h3, classifyMarker]

@[simp] theorem decodeRequest_ingest (d : List Byte) : decodeRequest 0x00#8 d = some (.ingest d) := rfl
@[simp] theorem decodeRequest_read (d : List Byte) : decodeRequest 0x40#8 d = some .read := rfl
@[simp] theorem decodeRequest_encodeStart (d : List Byte) : decodeRequest 0x80#8 d = some .encodeStart := rfl
@[simp] theorem decodeRequest_encodeStop (d : List Byte) : decodeRequest 0x81#8 d = some .encodeStop := rfl
@[simp] theorem decodeRequest_encodeAutosendOn (d : List Byte) : decodeRequest 0x82#8 d = some .encodeAutosendOn := rfl
@[simp] theorem decodeRequest_encodeAutosendOff (d : List Byte) : decodeRequest 0x83#8 d = some .encodeAutosendOff := rfl
@[simp] theorem decodeRequest_reset (d : List Byte) : decodeRequest 0xC0#8 d = some .reset := rfl

/-- Everything the request decoder can answer: an instruction that is a request, never a marker. -/
theorem decodeRequest_cases {w : Byte} {d : List Byte} {i : Instr} (h : decodeRequest w d = some i) :
    i = .ingest d ∨ i = .read ∨ i = .encodeStart ∨ i = .encodeStop ∨ i = .encodeAutosendOn ∨
      i = .encodeAutosendOff ∨ i = .reset := by
  unfold decodeRequest encodeOfSel at h
  split_ifs at h <;> simp_all

/-- Whether a word spells an operation does not depend on the data bytes sent with it. -/
theorem decodeRequest_isSome_data (w : Byte) (d e : List Byte) :
    (decodeRequest w d).isSome = (decodeRequest w e).isSome := by
  unfold decodeRequest
  split_ifs <;> rfl

end Sys2Proof
end

