-- ==== Sys2Proof/Laws/State.lean ====
section
/-! SUPPORT. One lemma per field per update of the state, so that no later proof unfolds a record update. -/

namespace Sys2Proof.Machine

@[simp] theorem State.len_eq (s : State) : s.len = s.buf.length := rfl

@[simp] theorem append_buf (c : List Byte) (s : State) : (append c s).buf = s.buf ++ c := rfl
@[simp] theorem append_st (c : List Byte) (s : State) : (append c s).st = s.st := rfl
@[simp] theorem append_rdValid (c : List Byte) (s : State) : (append c s).rdValid = s.rdValid := rfl
@[simp] theorem append_rdPm25 (c : List Byte) (s : State) : (append c s).rdPm25 = s.rdPm25 := rfl
@[simp] theorem append_rdPm10 (c : List Byte) (s : State) : (append c s).rdPm10 = s.rdPm10 := rfl
@[simp] theorem append_maxChunk (c : List Byte) (s : State) : (append c s).maxChunk = s.maxChunk := rfl
@[simp] theorem append_requests (c : List Byte) (s : State) : (append c s).requests = s.requests := rfl
@[simp] theorem append_responses (c : List Byte) (s : State) : (append c s).responses = s.responses := rfl
@[simp] theorem append_refusalMark (c : List Byte) (s : State) : (append c s).refusalMark = s.refusalMark := rfl

@[simp] theorem compact_buf (k : Nat) (s : State) : (compact k s).buf = s.buf.drop k := rfl
@[simp] theorem compact_st (k : Nat) (s : State) : (compact k s).st = s.st := rfl
@[simp] theorem compact_rdValid (k : Nat) (s : State) : (compact k s).rdValid = s.rdValid := rfl
@[simp] theorem compact_rdPm25 (k : Nat) (s : State) : (compact k s).rdPm25 = s.rdPm25 := rfl
@[simp] theorem compact_rdPm10 (k : Nat) (s : State) : (compact k s).rdPm10 = s.rdPm10 := rfl
@[simp] theorem compact_maxChunk (k : Nat) (s : State) : (compact k s).maxChunk = s.maxChunk := rfl
@[simp] theorem compact_requests (k : Nat) (s : State) : (compact k s).requests = s.requests := rfl
@[simp] theorem compact_responses (k : Nat) (s : State) : (compact k s).responses = s.responses := rfl
@[simp] theorem compact_refusalMark (k : Nat) (s : State) : (compact k s).refusalMark = s.refusalMark := rfl

@[simp] theorem clear_buf (s : State) : (clear s).buf = [] := rfl
@[simp] theorem clear_st (s : State) : (clear s).st = s.st := rfl
@[simp] theorem clear_rdValid (s : State) : (clear s).rdValid = s.rdValid := rfl
@[simp] theorem clear_rdPm25 (s : State) : (clear s).rdPm25 = s.rdPm25 := rfl
@[simp] theorem clear_rdPm10 (s : State) : (clear s).rdPm10 = s.rdPm10 := rfl
@[simp] theorem clear_maxChunk (s : State) : (clear s).maxChunk = s.maxChunk := rfl
@[simp] theorem clear_requests (s : State) : (clear s).requests = s.requests := rfl
@[simp] theorem clear_responses (s : State) : (clear s).responses = s.responses := rfl
@[simp] theorem clear_refusalMark (s : State) : (clear s).refusalMark = s.refusalMark := rfl

@[simp] theorem setSt_buf (d : DecoderState) (s : State) : (setSt d s).buf = s.buf := rfl
@[simp] theorem setSt_st (d : DecoderState) (s : State) : (setSt d s).st = d := rfl
@[simp] theorem setSt_rdValid (d : DecoderState) (s : State) : (setSt d s).rdValid = s.rdValid := rfl
@[simp] theorem setSt_rdPm25 (d : DecoderState) (s : State) : (setSt d s).rdPm25 = s.rdPm25 := rfl
@[simp] theorem setSt_rdPm10 (d : DecoderState) (s : State) : (setSt d s).rdPm10 = s.rdPm10 := rfl
@[simp] theorem setSt_maxChunk (d : DecoderState) (s : State) : (setSt d s).maxChunk = s.maxChunk := rfl
@[simp] theorem setSt_requests (d : DecoderState) (s : State) : (setSt d s).requests = s.requests := rfl
@[simp] theorem setSt_responses (d : DecoderState) (s : State) : (setSt d s).responses = s.responses := rfl
@[simp] theorem setSt_refusalMark (d : DecoderState) (s : State) : (setSt d s).refusalMark = s.refusalMark := rfl

@[simp] theorem setReading_buf (v : Bool) (p q : Word16) (s : State) : (setReading v p q s).buf = s.buf := rfl
@[simp] theorem setReading_st (v : Bool) (p q : Word16) (s : State) : (setReading v p q s).st = s.st := rfl
@[simp] theorem setReading_rdValid (v : Bool) (p q : Word16) (s : State) : (setReading v p q s).rdValid = v := rfl
@[simp] theorem setReading_rdPm25 (v : Bool) (p q : Word16) (s : State) : (setReading v p q s).rdPm25 = p := rfl
@[simp] theorem setReading_rdPm10 (v : Bool) (p q : Word16) (s : State) : (setReading v p q s).rdPm10 = q := rfl
@[simp] theorem setReading_maxChunk (v : Bool) (p q : Word16) (s : State) : (setReading v p q s).maxChunk = s.maxChunk := rfl
@[simp] theorem setReading_requests (v : Bool) (p q : Word16) (s : State) : (setReading v p q s).requests = s.requests := rfl
@[simp] theorem setReading_responses (v : Bool) (p q : Word16) (s : State) : (setReading v p q s).responses = s.responses := rfl
@[simp] theorem setReading_refusalMark (v : Bool) (p q : Word16) (s : State) : (setReading v p q s).refusalMark = s.refusalMark := rfl

@[simp] theorem respond_buf (r : Response) (s : State) : (respond r s).buf = s.buf := rfl
@[simp] theorem respond_st (r : Response) (s : State) : (respond r s).st = s.st := rfl
@[simp] theorem respond_rdValid (r : Response) (s : State) : (respond r s).rdValid = s.rdValid := rfl
@[simp] theorem respond_rdPm25 (r : Response) (s : State) : (respond r s).rdPm25 = s.rdPm25 := rfl
@[simp] theorem respond_rdPm10 (r : Response) (s : State) : (respond r s).rdPm10 = s.rdPm10 := rfl
@[simp] theorem respond_maxChunk (r : Response) (s : State) : (respond r s).maxChunk = s.maxChunk := rfl
@[simp] theorem respond_requests (r : Response) (s : State) : (respond r s).requests = s.requests := rfl
@[simp] theorem respond_responses (r : Response) (s : State) : (respond r s).responses = s.responses ++ [r] := rfl
@[simp] theorem respond_refusalMark (r : Response) (s : State) : (respond r s).refusalMark = s.refusalMark := rfl

@[simp] theorem emit_buf (e : Event) (s : State) : (emit e s).buf = s.buf := rfl
@[simp] theorem emit_st (e : Event) (s : State) : (emit e s).st = s.st := rfl
@[simp] theorem emit_rdValid (e : Event) (s : State) : (emit e s).rdValid = s.rdValid := rfl
@[simp] theorem emit_rdPm25 (e : Event) (s : State) : (emit e s).rdPm25 = s.rdPm25 := rfl
@[simp] theorem emit_rdPm10 (e : Event) (s : State) : (emit e s).rdPm10 = s.rdPm10 := rfl
@[simp] theorem emit_maxChunk (e : Event) (s : State) : (emit e s).maxChunk = s.maxChunk := rfl
@[simp] theorem emit_requests (e : Event) (s : State) : (emit e s).requests = s.requests := rfl
@[simp] theorem emit_responses (e : Event) (s : State) : (emit e s).responses = s.responses ++ [.ingest e false 0x0000#16 0x0000#16] := rfl
@[simp] theorem emit_refusalMark (e : Event) (s : State) : (emit e s).refusalMark = s.refusalMark := rfl

@[simp] theorem emitValid_buf (p q : Word16) (s : State) : (emitValid p q s).buf = s.buf := rfl
@[simp] theorem emitValid_st (p q : Word16) (s : State) : (emitValid p q s).st = s.st := rfl
@[simp] theorem emitValid_rdValid (p q : Word16) (s : State) : (emitValid p q s).rdValid = s.rdValid := rfl
@[simp] theorem emitValid_rdPm25 (p q : Word16) (s : State) : (emitValid p q s).rdPm25 = s.rdPm25 := rfl
@[simp] theorem emitValid_rdPm10 (p q : Word16) (s : State) : (emitValid p q s).rdPm10 = s.rdPm10 := rfl
@[simp] theorem emitValid_maxChunk (p q : Word16) (s : State) : (emitValid p q s).maxChunk = s.maxChunk := rfl
@[simp] theorem emitValid_requests (p q : Word16) (s : State) : (emitValid p q s).requests = s.requests := rfl
@[simp] theorem emitValid_responses (p q : Word16) (s : State) : (emitValid p q s).responses = s.responses ++ [.ingest .frameValid false p q] := rfl
@[simp] theorem emitValid_refusalMark (p q : Word16) (s : State) : (emitValid p q s).refusalMark = s.refusalMark := rfl

@[simp] theorem emitOverflow_buf (s : State) : (emitOverflow s).buf = s.buf := rfl
@[simp] theorem emitOverflow_st (s : State) : (emitOverflow s).st = s.st := rfl
@[simp] theorem emitOverflow_rdValid (s : State) : (emitOverflow s).rdValid = s.rdValid := rfl
@[simp] theorem emitOverflow_rdPm25 (s : State) : (emitOverflow s).rdPm25 = s.rdPm25 := rfl
@[simp] theorem emitOverflow_rdPm10 (s : State) : (emitOverflow s).rdPm10 = s.rdPm10 := rfl
@[simp] theorem emitOverflow_maxChunk (s : State) : (emitOverflow s).maxChunk = s.maxChunk := rfl
@[simp] theorem emitOverflow_requests (s : State) : (emitOverflow s).requests = s.requests := rfl
@[simp] theorem emitOverflow_responses (s : State) : (emitOverflow s).responses = s.responses ++ [.ingest .none true 0x0000#16 0x0000#16] := rfl
@[simp] theorem emitOverflow_refusalMark (s : State) : (emitOverflow s).refusalMark = s.refusalMark := rfl

@[simp] theorem refuse_buf (r : RefuseReason) (s : State) : (refuse r s).buf = s.buf := rfl
@[simp] theorem refuse_st (r : RefuseReason) (s : State) : (refuse r s).st = s.st := rfl
@[simp] theorem refuse_rdValid (r : RefuseReason) (s : State) : (refuse r s).rdValid = s.rdValid := rfl
@[simp] theorem refuse_rdPm25 (r : RefuseReason) (s : State) : (refuse r s).rdPm25 = s.rdPm25 := rfl
@[simp] theorem refuse_rdPm10 (r : RefuseReason) (s : State) : (refuse r s).rdPm10 = s.rdPm10 := rfl
@[simp] theorem refuse_maxChunk (r : RefuseReason) (s : State) : (refuse r s).maxChunk = s.maxChunk := rfl
@[simp] theorem refuse_requests (r : RefuseReason) (s : State) : (refuse r s).requests = s.requests := rfl
@[simp] theorem refuse_responses (r : RefuseReason) (s : State) : (refuse r s).responses = s.responses := rfl
@[simp] theorem refuse_refusalMark (r : RefuseReason) (s : State) : (refuse r s).refusalMark = s.refusalMark.or (some r) := rfl

@[simp] theorem resetBlock_buf (s : State) : (resetBlock s).buf = [] := rfl
@[simp] theorem resetBlock_st (s : State) : (resetBlock s).st = .idle := rfl
@[simp] theorem resetBlock_rdValid (s : State) : (resetBlock s).rdValid = false := rfl
@[simp] theorem resetBlock_rdPm25 (s : State) : (resetBlock s).rdPm25 = 0x0000#16 := rfl
@[simp] theorem resetBlock_rdPm10 (s : State) : (resetBlock s).rdPm10 = 0x0000#16 := rfl
@[simp] theorem resetBlock_maxChunk (s : State) : (resetBlock s).maxChunk = s.maxChunk := rfl
@[simp] theorem resetBlock_requests (s : State) : (resetBlock s).requests = s.requests := rfl
@[simp] theorem resetBlock_responses (s : State) : (resetBlock s).responses = s.responses := rfl
@[simp] theorem resetBlock_refusalMark (s : State) : (resetBlock s).refusalMark = s.refusalMark := rfl

@[simp] theorem placeRequest_buf (r : Request) (s : State) : (placeRequest r s).buf = s.buf := rfl
@[simp] theorem placeRequest_st (r : Request) (s : State) : (placeRequest r s).st = s.st := rfl
@[simp] theorem placeRequest_rdValid (r : Request) (s : State) : (placeRequest r s).rdValid = s.rdValid := rfl
@[simp] theorem placeRequest_rdPm25 (r : Request) (s : State) : (placeRequest r s).rdPm25 = s.rdPm25 := rfl
@[simp] theorem placeRequest_rdPm10 (r : Request) (s : State) : (placeRequest r s).rdPm10 = s.rdPm10 := rfl
@[simp] theorem placeRequest_maxChunk (r : Request) (s : State) : (placeRequest r s).maxChunk = s.maxChunk := rfl
@[simp] theorem placeRequest_requests (r : Request) (s : State) : (placeRequest r s).requests = r :: s.requests := rfl
@[simp] theorem placeRequest_responses (r : Request) (s : State) : (placeRequest r s).responses = s.responses := rfl
@[simp] theorem placeRequest_refusalMark (r : Request) (s : State) : (placeRequest r s).refusalMark = s.refusalMark := rfl

@[simp] theorem placeMarker_buf (a b : Byte) (s : State) : (placeMarker a b s).buf = a :: b :: s.buf.drop 2 := rfl
@[simp] theorem placeMarker_st (a b : Byte) (s : State) : (placeMarker a b s).st = .idle := rfl
@[simp] theorem placeMarker_rdValid (a b : Byte) (s : State) : (placeMarker a b s).rdValid = s.rdValid := rfl
@[simp] theorem placeMarker_rdPm25 (a b : Byte) (s : State) : (placeMarker a b s).rdPm25 = s.rdPm25 := rfl
@[simp] theorem placeMarker_rdPm10 (a b : Byte) (s : State) : (placeMarker a b s).rdPm10 = s.rdPm10 := rfl
@[simp] theorem placeMarker_maxChunk (a b : Byte) (s : State) : (placeMarker a b s).maxChunk = s.maxChunk := rfl
@[simp] theorem placeMarker_requests (a b : Byte) (s : State) : (placeMarker a b s).requests = s.requests := rfl
@[simp] theorem placeMarker_responses (a b : Byte) (s : State) : (placeMarker a b s).responses = s.responses := rfl
@[simp] theorem placeMarker_refusalMark (a b : Byte) (s : State) : (placeMarker a b s).refusalMark = s.refusalMark := rfl

@[simp] theorem powerOn_buf (m : Nat) : (State.powerOn m).buf = [] := rfl
@[simp] theorem powerOn_st (m : Nat) : (State.powerOn m).st = .idle := rfl
@[simp] theorem powerOn_rdValid (m : Nat) : (State.powerOn m).rdValid = false := rfl
@[simp] theorem powerOn_rdPm25 (m : Nat) : (State.powerOn m).rdPm25 = 0x0000#16 := rfl
@[simp] theorem powerOn_rdPm10 (m : Nat) : (State.powerOn m).rdPm10 = 0x0000#16 := rfl
@[simp] theorem powerOn_maxChunk (m : Nat) : (State.powerOn m).maxChunk = m := rfl
@[simp] theorem powerOn_requests (m : Nat) : (State.powerOn m).requests = [] := rfl
@[simp] theorem powerOn_responses (m : Nat) : (State.powerOn m).responses = [] := rfl
@[simp] theorem powerOn_refusalMark (m : Nat) : (State.powerOn m).refusalMark = none := rfl

end Sys2Proof.Machine
end

