-- ==== Sys2Proof/Laws/Ops.lean ====
section
/-! SUPPORT. For each shared operation, one lemma that says everything it can do; and what one INGEST, one operation
and one step can do. Later proofs cite these instead of unfolding the operations. -/

namespace Sys2Proof.Machine

/-- Writing st with the value it has changes nothing. -/
@[simp] theorem setSt_self (s : State) : setSt s.st s = s := rfl

theorem setSt_of_eq {s : State} {d : DecoderState} (h : s.st = d) : setSt d s = s := by subst h; rfl

@[simp] theorem tooLong_eq_true {c : List Byte} {s : State} : tooLong c s = true ↔ s.maxChunk < c.length := by
  simp [tooLong]

@[simp] theorem overflows_eq_true {c : List Byte} {s : State} :
    overflows c s = true ↔ 512 < s.buf.length + c.length := decide_eq_true_iff

/-- The front marker of a buffer of two bytes or more, in terms of its first two bytes (spec R68). -/
theorem frontMarker_eq (b : List Byte) : frontMarker b = be16 (b.getD 0 0) (b.getD 1 0) := rfl

theorem frontMarker_eq_data_iff (b : List Byte) :
    frontMarker b = 0x424D#16 ↔ b.getD 0 0 = 0x42#8 ∧ b.getD 1 0 = 0x4D#8 := be16_eq_data_iff

/-- A frame is judged valid or invalid, and nothing else (R111, R114, R115). -/
theorem judgeFrame_cases (f : List Byte) (s : State) :
    (checksumPasses f = true ∧
      judgeFrame f s = emitValid (framePm25 f) (framePm10 f) (setReading true (framePm25 f) (framePm10 f) s)) ∨
    (checksumPasses f = false ∧ judgeFrame f s = emit .frameInvalid s) := by
  cases h : checksumPasses f <;> simp [judgeFrame, h]

/-- In ReadingFrame with the bytes at hand: wait, or extract one frame (R108, R109). -/
theorem collectFrame_cases (s : State) :
    (s.buf.length < 32 ∧ collectFrame s = emit .none s) ∨
    (32 ≤ s.buf.length ∧ collectFrame s = judgeFrame (s.buf.take 32) (setSt .idle (compact 32 s))) := by
  by_cases h : s.buf.length < 32
  · left; simp [collectFrame, Config.frameLen, h]
  · right; simp [collectFrame, extractFrame, Config.frameLen, h]; omega

/-- Classifying the front is running the decoded marker (R68). -/
theorem classifyFront_eq_exec (s : State) : classifyFront s = exec (decodeMarker (frontMarker s.buf)) s := by
  unfold classifyFront decodeMarker
  cases classifyMarker (frontMarker s.buf) <;> rfl

/-- What an INGEST does once its chunk is appended (R103 to R109). -/
theorem synchronize_cases {s t : State} (h : synchronize s = .next t) :
    (s.buf.length < 2 ∧ t = emit .none s) ∨
    (2 ≤ s.buf.length ∧ s.st = .idle ∧ frontMarker s.buf = 0xA5A5#16 ∧ t = clearAndEmit .ackOk s) ∨
    (2 ≤ s.buf.length ∧ s.st = .idle ∧ frontMarker s.buf = 0x9696#16 ∧ t = clearAndEmit .ackError s) ∨
    (2 ≤ s.buf.length ∧ s.st = .idle ∧ (frontMarker s.buf ≠ 0x424D#16 ∧ frontMarker s.buf ≠ 0xA5A5#16 ∧
      frontMarker s.buf ≠ 0x9696#16) ∧ t = clearAndEmit .ignored s) ∨
    (2 ≤ s.buf.length ∧ (s.st = .readingFrame ∨ s.st = .idle ∧ frontMarker s.buf = 0x424D#16) ∧
      t = collectFrame (setSt .readingFrame s)) := by
  by_cases h2 : s.buf.length < 2
  · left; simp_all [synchronize]
  · have h2' : 2 ≤ s.buf.length := by omega
    simp only [synchronize, State.len_eq, h2, if_false] at h
    cases hst : s.st with
    | readingFrame =>
      simp only [hst, Host.Outcome.next.injEq] at h
      simp [h2', ← h, setSt_of_eq hst]
    | idle =>
      simp only [hst, classifyFront] at h
      obtain ⟨hm, hc⟩ | ⟨hm, hc⟩ | ⟨hm, hc⟩ | ⟨hm, hc⟩ := classifyMarker_cases (frontMarker s.buf) <;>
        simp only [hc, execMarkerData, execMarkerAckOk, execMarkerAckError, execMarkerOther,
          Host.Outcome.next.injEq] at h <;> subst h <;> simp_all

/-- An INGEST answers a next state whatever the state holds (R200). -/
theorem synchronize_next (s : State) : ∃ t, synchronize s = .next t := by
  unfold synchronize classifyFront
  split_ifs
  · exact ⟨_, rfl⟩
  · cases s.st <;> cases classifyMarker (frontMarker s.buf) <;> exact ⟨_, rfl⟩

/-- Everything one INGEST can do (R100), in the order of R208. -/
theorem execIngest_cases {c : List Byte} {s t : State} (h : execIngest c s = .next t) :
    (s.maxChunk < c.length ∧ t = refuse (.chunkTooLong c.length) s) ∨
    (c.length ≤ s.maxChunk ∧ 512 < s.buf.length + c.length ∧ t = discardAll s) ∨
    (fits c s ∧ synchronize (append c s) = .next t) := by
  unfold execIngest at h
  split_ifs at h with h1 h2
  · left; simp_all
  · right; left; simp_all
  · right; right; simp only [tooLong_eq_true, overflows_eq_true] at h1 h2; exact ⟨⟨by omega, by omega⟩, h⟩

/-- An INGEST that fits is an append and then the synchronizer (R102). -/
theorem execIngest_of_fits {c : List Byte} {s : State} (h : fits c s) :
    execIngest c s = synchronize (append c s) := by
  have h1 : ¬ s.maxChunk < c.length := by have := h.1; omega
  have h2 : ¬ 512 < s.buf.length + c.length := by have := h.2; omega
  simp [execIngest, h1, h2]

/-- No operation stops the block (R200). -/
theorem exec_next (i : Instr) (s : State) : ∃ t, exec i s = .next t := by
  cases i <;> simp only [exec]
  case ingest c =>
    unfold execIngest; split_ifs
    · exact ⟨_, rfl⟩
    · exact ⟨_, rfl⟩
    · exact synchronize_next _
  all_goals exact ⟨_, rfl⟩

/-- In ReadingFrame after the append: wait, accept or reject one frame (R108, R109, R114, R115). -/
theorem collectFrame_readingFrame_cases (s : State) :
    (s.buf.length < 32 ∧ collectFrame (setSt .readingFrame s) = emit .none (setSt .readingFrame s)) ∨
    (32 ≤ s.buf.length ∧ checksumPasses (s.buf.take 32) = true ∧ collectFrame (setSt .readingFrame s) =
      emitValid (framePm25 (s.buf.take 32)) (framePm10 (s.buf.take 32))
        (setReading true (framePm25 (s.buf.take 32)) (framePm10 (s.buf.take 32)) (setSt .idle (compact 32 s)))) ∨
    (32 ≤ s.buf.length ∧ checksumPasses (s.buf.take 32) = false ∧
      collectFrame (setSt .readingFrame s) = emit .frameInvalid (setSt .idle (compact 32 s))) := by
  obtain ⟨h, e⟩ | ⟨h, e⟩ := collectFrame_cases (setSt .readingFrame s)
  · exact .inl ⟨h, e⟩
  · obtain ⟨x, e2⟩ | ⟨x, e2⟩ := judgeFrame_cases ((setSt .readingFrame s).buf.take 32)
      (setSt .idle (compact 32 (setSt .readingFrame s)))
    · exact .inr (.inl ⟨h, x, e.trans e2⟩)
    · exact .inr (.inr ⟨h, x, e.trans e2⟩)

/-- Every state one INGEST can answer, path by path (R100, R208). -/
theorem exec_ingest_cases {c : List Byte} {s t : State} (h : exec (.ingest c) s = .next t) :
    (s.maxChunk < c.length ∧ t = refuse (.chunkTooLong c.length) s) ∨
    (c.length ≤ s.maxChunk ∧ 512 < s.buf.length + c.length ∧ t = discardAll s) ∨
    (fits c s ∧ (s.buf ++ c).length < 2 ∧ t = emit .none (append c s)) ∨
    (fits c s ∧ 2 ≤ (s.buf ++ c).length ∧ s.st = .idle ∧ ¬ markerInFront (s.buf ++ c) ∧
      ∃ e, (e = .ackOk ∨ e = .ackError ∨ e = .ignored) ∧ t = clearAndEmit e (append c s)) ∨
    (fits c s ∧ 2 ≤ (s.buf ++ c).length ∧ (s.st = .readingFrame ∨ s.st = .idle ∧ markerInFront (s.buf ++ c)) ∧
      (((s.buf ++ c).length < 32 ∧ t = emit .none (setSt .readingFrame (append c s))) ∨
       (32 ≤ (s.buf ++ c).length ∧
         ∃ p q, t = emitValid p q (setReading true p q (setSt .idle (compact 32 (append c s))))) ∨
       (32 ≤ (s.buf ++ c).length ∧ t = emit .frameInvalid (setSt .idle (compact 32 (append c s)))))) := by
  obtain h | h | ⟨hf, h⟩ := execIngest_cases h
  · exact .inl h
  · exact .inr (.inl h)
  right; right
  have noMarker : ∀ m : Word16, m ≠ 0x424D#16 → frontMarker (append c s).buf = m → ¬ markerInFront (s.buf ++ c) := by
    rintro m hm rfl hh
    exact hm ((frontMarker_eq_data_iff _).2 hh)
  obtain ⟨a, b⟩ | ⟨a, b, m, d⟩ | ⟨a, b, m, d⟩ | ⟨a, b, m, d⟩ | ⟨a, b, d⟩ := synchronize_cases h
  · exact .inl ⟨hf, a, b⟩
  · exact .inr (.inl ⟨hf, a, b, noMarker _ (by decide) m, _, .inl rfl, d⟩)
  · exact .inr (.inl ⟨hf, a, b, noMarker _ (by decide) m, _, .inr (.inl rfl), d⟩)
  · exact .inr (.inl ⟨hf, a, b, noMarker _ m.1 rfl, _, .inr (.inr rfl), d⟩)
  · refine .inr (.inr ⟨hf, a, ?_, ?_⟩)
    · obtain b | ⟨b, m⟩ := b
      · exact .inl b
      · exact .inr ⟨b, (frontMarker_eq_data_iff _).1 m⟩
    · obtain ⟨l, e⟩ | ⟨l, _, e⟩ | ⟨l, _, e⟩ := collectFrame_readingFrame_cases (append c s)
      · exact .inl ⟨l, d.trans e⟩
      · exact .inr (.inl ⟨l, _, _, d.trans e⟩)
      · exact .inr (.inr ⟨l, d.trans e⟩)

/-- The checksum test of the extracted frame, in plain arithmetic (R110, R111). -/
theorem checksumPasses_iff (b : List Byte) : checksumPasses (b.take 32) = true ↔ sumMatches b := by
  simp only [checksumPasses, beq_iff_eq, frameSum, frameChecksum, fieldAt, byteAt]
  rw [BitVec.toNat_eq, be16_toNat, BitVec.toNat_ofNat]
  simp [List.getD, List.take_take, sumMatches]

/-- A step with nothing pending. -/
theorem step_none {s : State} (h : s.requests = []) : step s = .next s := by
  simp [step, takeRequest, h]

/-- A step that performs a legal request. -/
theorem step_some {s : State} {r : Request} {rest : List Request} {i : Instr} (h : s.requests = r :: rest)
    (hd : decodeRequest r.word r.data = some i) : step s = exec i { s with requests := rest } := by
  simp [step, takeRequest, h, hd]

/-- A step whose request spells no operation (R207). -/
theorem step_illegal {s : State} {r : Request} {rest : List Request} (h : s.requests = r :: rest)
    (hd : decodeRequest r.word r.data = none) :
    step s = .next (refuse (.illegalWord r.word) { s with requests := rest }) := by
  simp [step, takeRequest, h, hd]

/-- Everything one step can do. -/
theorem step_cases {s t : State} (h : step s = .next t) :
    (s.requests = [] ∧ t = s) ∨
    (∃ r rest, s.requests = r :: rest ∧ decodeRequest r.word r.data = none ∧
      t = refuse (.illegalWord r.word) { s with requests := rest }) ∨
    (∃ r rest i, s.requests = r :: rest ∧ decodeRequest r.word r.data = some i ∧
      exec i { s with requests := rest } = .next t) := by
  cases hr : s.requests with
  | nil => left; rw [step_none hr] at h; simp_all
  | cons r rest =>
    right
    cases hd : decodeRequest r.word r.data with
    | none => left; rw [step_illegal hr hd] at h; simp only [Host.Outcome.next.injEq] at h; exact ⟨r, rest, rfl, hd, h.symm⟩
    | some i => right; rw [step_some hr hd] at h; exact ⟨r, rest, i, rfl, hd, h⟩

end Sys2Proof.Machine
end

