-- ==== Sys2Proof/Laws/PerInstr.lean ====
section
/-! SUPPORT. Per instruction: its encoding carries its opcode-table row's match under the row's mask. -/

namespace Sys2Proof.Laws.EncodingRow

/-- The number a carried instruction shows where the opcode table looks: the request word, or the marker (spec R60, R68). -/
def shown : RawInstr → Nat
  | .request w _ => w.toNat
  | .marker a b => (be16 a b).toNat

/-- The row's match and mask in spec/opcode_table.json. -/
def row : Instr → Nat × Nat
  | .ingest _ => (0x00, 0xFF)
  | .read => (0x40, 0xFF)
  | .encodeStart => (0x80, 0xFF)
  | .encodeStop => (0x81, 0xFF)
  | .encodeAutosendOn => (0x82, 0xFF)
  | .encodeAutosendOff => (0x83, 0xFF)
  | .reset => (0xC0, 0xFF)
  | .markerData => (0x424D, 0xFFFF)
  | .markerAckOk => (0xA5A5, 0xFFFF)
  | .markerAckError => (0x9696, 0xFFFF)
  | .markerOther _ => (0x0000, 0x0000)

/-- The encoding of a well-formed instruction matches its row. -/
def Statement (i : Instr) : Prop := i.wf = true → Nat.land (shown (Sys2Proof.encode i)) (row i).2 = (row i).1

theorem ingest (chunk : List Byte) : Statement (.ingest chunk) := fun _ =>
  (by decide : Nat.land (requestWord 0b00#2 0b00#2).toNat 0xFF = 0x00)
theorem read : Statement .read := fun _ => by decide
theorem encodeStart : Statement .encodeStart := fun _ => by decide
theorem encodeStop : Statement .encodeStop := fun _ => by decide
theorem encodeAutosendOn : Statement .encodeAutosendOn := fun _ => by decide
theorem encodeAutosendOff : Statement .encodeAutosendOff := fun _ => by decide
theorem reset : Statement .reset := fun _ => by decide
theorem markerData : Statement .markerData := fun _ => by decide
theorem markerAckOk : Statement .markerAckOk := fun _ => by decide
theorem markerAckError : Statement .markerAckError := fun _ => by decide
theorem markerOther (m : Word16) : Statement (.markerOther m) := fun _ => Nat.and_zero _

end Sys2Proof.Laws.EncodingRow
end

