-- ==== Sys2Proof/Laws/Session.lean ====
section
/-! SUPPORT. What the host's actions do, so that a sequence of them is unfolded one action at a time. -/

namespace Sys2Proof.Machine

@[simp] theorem goOn_next (h : Session) (f : Session → SessionResult) : goOn (.next h) f = f h := rfl

/-- A run of host events is one reaction, then the rest. -/
theorem hostRun_cons {e : HostEvent} {es : List HostEvent} {h h' : Session} (he : hostReact e h = .next h') :
    hostRun (e :: es) h = hostRun es h' := by
  simp [hostRun, he]

/-- Issuing a legal request is running its instruction on the block (spec R212). -/
theorem issue_next {a : Agent} {w : Byte} {d : List Byte} {h : Session} {i : Instr} {t : State}
    (hd : decodeRequest w d = some i) (he : exec i h.block = .next t) :
    issue a w d h = .next { h with block := t } := by
  have e : ({ placeRequest ⟨a, w, d⟩ h.block with requests := h.block.requests } : State) = h.block := rfl
  unfold issue
  rw [step_some (s := placeRequest ⟨a, w, d⟩ h.block) rfl hd, e, he]

/-- Issuing anything changes nothing of the session but its block. -/
theorem issue_keeps {a : Agent} {w : Byte} {d : List Byte} {h h' : Session} (hi : issue a w d h = .next h') :
    h' = { h with block := h'.block } := by
  unfold issue at hi
  split at hi
  · cases hi; rfl
  · cases hi
  · cases hi

/-- The four ENCODE words, by selector (R62). -/
theorem decodeRequest_encodeWord (sel : BitVec 2) :
    decodeRequest (requestWord 0b10#2 sel) [] = some (encodeOfSel sel) := by
  revert sel; decide

/-- Each of the four ENCODE operations is ENCODE of its selector (R150). -/
theorem exec_encodeOfSel (sel : BitVec 2) (s : State) : exec (encodeOfSel sel) s = .next (encodeCommand sel s) := by
  have h : ∀ x : BitVec 2, x = 0b00#2 ∨ x = 0b01#2 ∨ x = 0b10#2 ∨ x = 0b11#2 := by decide
  obtain rfl | rfl | rfl | rfl := h sel <;> rfl

@[simp] theorem lastFrameBytes_encodeCommand (sel : BitVec 2) (s : State) :
    lastFrameBytes (encodeCommand sel s) = commandBytes (commandFrame sel) := by
  simp [lastFrameBytes, encodeCommand]

/-- The session after ENCODE and the write of its bytes. -/
def written (sel : BitVec 2) (w : WriteOutcome) (h : Session) : Session :=
  { h with block := encodeCommand sel h.block, trace := h.trace ++ [writeAct w (bytesOf sel)] }

/-- ENCODE and write: the block returns the selector's frame, and the write is noted as the transport takes it. -/
theorem encodeAndWrite_next (a : Agent) (sel : BitVec 2) (w : WriteOutcome) (h : Session) :
    encodeAndWrite a sel w h = .next (written sel w h) := by
  unfold encodeAndWrite
  rw [issue_next (decodeRequest_encodeWord sel) (exec_encodeOfSel sel h.block), goOn_next,
    lastFrameBytes_encodeCommand]
  rfl

/-- A single command always completes its ENCODE, and tells its caller how the write went. -/
theorem singleCommand_next (a : Agent) (sel : BitVec 2) (w : WriteOutcome) (h : Session) :
    singleCommand a sel w h =
      .next { written sel w h with commandAnswers := h.commandAnswers ++ [writeAnswer w] } := by
  rw [singleCommand, encodeAndWrite_next, goOn_next]
  rfl

/-- A poll gives its reader the Reading, or that it is unavailable, and changes nothing else. -/
theorem poll_next (a : Agent) (h : Session) :
    poll a h = .next { h with
      block := respond (.read h.block.rdValid h.block.rdPm25 h.block.rdPm10) h.block,
      polls := h.polls ++
        [(a, if h.block.rdValid then .readings h.block.rdPm25 h.block.rdPm10 else .unavailable)] } := by
  rw [poll, issue_next (decodeRequest_read []) rfl, goOn_next]
  simp [lastPollResult, respond]

/-- A task that resets the block. -/
theorem performTask_reset (w : WriteOutcome) (extra : Nat) (rest : List HostTask) (h : Session) :
    performTask w extra rest h .reset =
      .next (continueCall rest { h with block := respond .reset (resetBlock h.block) }) := by
  rw [performTask, issue_next (decodeRequest_reset []) rfl, goOn_next]

/-- A task that sends a command. -/
theorem performTask_send (w : WriteOutcome) (extra : Nat) (rest : List HostTask) (h : Session) (sel : BitVec 2) :
    performTask w extra rest h (.send sel) =
      .next (afterWrite w rest (written sel w h)) := by
  rw [performTask, sendCommand, encodeAndWrite_next, goOn_next]

/-- A settle pause. -/
theorem performTask_settle (w : WriteOutcome) (extra : Nat) (rest : List HostTask) (h : Session) :
    performTask w extra rest h .settle = .next (continueCall rest (note (.waited (h.settleDelay + extra)) h)) := rfl

/-- Recording whether the session is started. -/
theorem performTask_setStarted (w : WriteOutcome) (extra : Nat) (rest : List HostTask) (h : Session) (b : Bool) :
    performTask w extra rest h (.setStarted b) = .next (continueCall rest { h with started := b }) := rfl

/-- Continuing a call keeps all of the session but its tasks and, when it has completed, its answers. -/
theorem continueCall_cases (rest : List HostTask) (h : Session) :
    (rest = [] ∧ continueCall rest h = { h with tasks := [], answers := h.answers ++ [.completed] }) ∨
    (rest ≠ [] ∧ continueCall rest h = { h with tasks := rest }) := by
  cases rest with
  | nil => exact .inl ⟨rfl, rfl⟩
  | cons t ts => exact .inr ⟨by simp, rfl⟩

@[simp] theorem continueCall_tasks (rest : List HostTask) (h : Session) : (continueCall rest h).tasks = rest := by
  cases rest <;> rfl
@[simp] theorem continueCall_trace (rest : List HostTask) (h : Session) : (continueCall rest h).trace = h.trace := by
  cases rest <;> rfl
@[simp] theorem continueCall_settleDelay (rest : List HostTask) (h : Session) :
    (continueCall rest h).settleDelay = h.settleDelay := by
  cases rest <;> rfl
@[simp] theorem continueCall_started (rest : List HostTask) (h : Session) : (continueCall rest h).started = h.started := by
  cases rest <;> rfl
@[simp] theorem continueCall_waiting (rest : List HostTask) (h : Session) : (continueCall rest h).waiting = h.waiting := by
  cases rest <;> rfl
@[simp] theorem continueCall_commandAnswers (rest : List HostTask) (h : Session) :
    (continueCall rest h).commandAnswers = h.commandAnswers := by
  cases rest <;> rfl
@[simp] theorem continueCall_polls (rest : List HostTask) (h : Session) : (continueCall rest h).polls = h.polls := by
  cases rest <;> rfl
@[simp] theorem continueCall_block (rest : List HostTask) (h : Session) : (continueCall rest h).block = h.block := by
  cases rest <;> rfl

/-- The bytes of two traces in a row. -/
@[simp] theorem bytesWritten_append (a b : List HostAct) : bytesWritten (a ++ b) = bytesWritten a ++ bytesWritten b := by
  induction a with
  | nil => rfl
  | cons x a ih => cases x <;> simp [bytesWritten, ih]

end Sys2Proof.Machine
end

