-- ==== Sys2Proof/Tests/Slice0.lean ====
section
/-! SUPPORT. Tests on fixed values, each from spec 95_test_vectors.md or worked out by hand from the rule it names, and for
every statement with hypotheses a witness that meets them all. -/

namespace Sys2Proof.Tests

open Sys2Proof Sys2Proof.Machine

/-! ### Helpers -/

/-- Frame F1: PM2.5 = 100, PM10 = 50, sum 0x0125. -/
def f1 : List Byte := [0x42, 0x4D, 0, 0, 0, 0, 0, 0x64, 0, 0x32] ++ List.replicate 20 0 ++ [0x01, 0x25]

/-- Frame F1x: F1 with its checksum bytes inverted. -/
def f1x : List Byte := f1.take 30 ++ [0xFE, 0xDA]

/-- Frame F2: the largest sum, 0x1C73. -/
def f2 : List Byte := [0x42, 0x4D] ++ List.replicate 28 0xFF ++ [0x1C, 0x73]

/-- A state with this decoder state and buffer, the Reading unavailable. -/
def at' (d : DecoderState) (b : List Byte) : State := { State.powerOn 1024 with st := d, buf := b }

/-- A state whose Reading is F1's, with F1's response. -/
def withReading (s : State) : State :=
  { s with rdValid := true, rdPm25 := 0x0064, rdPm10 := 0x0032, responses := [.ingest .frameValid false 0x0064 0x0032] }

/-- A state with one pending request. -/
def pending (w : Byte) (d : List Byte) (s : State) : State := { s with requests := [⟨.ingestAgent, w, d⟩] }

/-- The next state, if there is one. -/
def after : StepResult → Option State
  | .next s => some s
  | .fault _ => none
  | .refused _ => none

/-- The last response and the block's visible end state. -/
def seen (o : StepResult) : Option (Option Response × DecoderState × Nat) :=
  (after o).map fun s => (s.responses.getLast?, s.st, s.len)

/-- The Reading afterwards. -/
def reading (o : StepResult) : Option (Bool × Word16 × Word16) := (after o).map fun s => (s.rdValid, s.rdPm25, s.rdPm10)

/-! ### Well-formedness: an ill-formed term for each value the check refuses -/

theorem test_wf_refuses_data : (Instr.markerOther 0x424D#16).wf = false := by decide
theorem test_wf_refuses_ack_ok : (Instr.markerOther 0xA5A5#16).wf = false := by decide
theorem test_wf_refuses_ack_error : (Instr.markerOther 0x9696#16).wf = false := by decide
theorem test_wf_accepts_noise : (Instr.markerOther 0x1342#16).wf = true := by decide

/-! ### Decoding, from words written out by the spec's tables (R61, R62, R68) -/

theorem test_decode_ingest : decode (.request 0b00000000#8 [0x55#8]) = some (.ingest [0x55#8]) := by decide
theorem test_decode_read : decode (.request 0b01000000#8 []) = some .read := by decide
theorem test_decode_encode_start : decode (.request 0b10000000#8 []) = some .encodeStart := by decide
theorem test_decode_encode_stop : decode (.request 0b10000001#8 []) = some .encodeStop := by decide
theorem test_decode_encode_on : decode (.request 0b10000010#8 []) = some .encodeAutosendOn := by decide
theorem test_decode_encode_off : decode (.request 0b10000011#8 []) = some .encodeAutosendOff := by decide
theorem test_decode_reset : decode (.request 0b11000000#8 []) = some .reset := by decide
theorem test_decode_marker_data : decode (.marker 0b01000010#8 0b01001101#8) = some .markerData := by decide
theorem test_decode_marker_ok : decode (.marker 0b10100101#8 0b10100101#8) = some .markerAckOk := by decide
theorem test_decode_marker_error : decode (.marker 0b10010110#8 0b10010110#8) = some .markerAckError := by decide
theorem test_decode_marker_other :
    decode (.marker 0b01001101#8 0b01000010#8) = some (.markerOther 0b0100110101000010#16) := by decide
theorem test_decode_refuses_sel : decode (.request 0b00000001#8 []) = none := by decide
theorem test_decode_refuses_rsv : decode (.request 0b01000100#8 []) = none := by decide
theorem test_decode_refuses_reset_sel : decode (.request 0b11000011#8 []) = none := by decide

theorem test_table_words :
    [(8, 0x00), (8, 0x40), (8, 0x80), (8, 0x81), (8, 0x82), (8, 0x83), (8, 0xC0), (16, 0x424D), (16, 0xA5A5),
      (16, 0x9696), (16, 0x0000)].map (fun p => decodeTableWord p.1 p.2) =
    [some (.ingest []), some .read, some .encodeStart, some .encodeStop, some .encodeAutosendOn,
      some .encodeAutosendOff, some .reset, some .markerData, some .markerAckOk, some .markerAckError,
      some (.markerOther 0)] := by decide

/-- Placed first after reset, a request and a marker run. -/
theorem test_first_request : seen (step (State.reset.withFetchWord 8 0xC0)) = some (some .reset, .idle, 0) := by decide
theorem test_first_marker :
    seen (step (State.reset.withFetchWord 16 0xA5A5)) = some (some (.ingest .ackOk false 0 0), .idle, 0) := by decide

/-! ### One step each -/

set_option maxRecDepth 8000 in
/-- I-23, first operation: exactly CAP bytes do not overflow. -/
theorem test_ingest_exactly_full :
    seen (step (pending 0x00 (f1 ++ List.replicate 480 0) (at' .idle []))) =
      some (some (.ingest .frameValid false 0x0064 0x0032), .idle, 480) := by decide

set_option maxRecDepth 8000 in
/-- I-28: one byte more overflows, and the Reading stays. -/
theorem test_ingest_overflow :
    seen (step (pending 0x00 (List.replicate 513 0) (withReading (at' .idle [])))) =
        some (some (.ingest .none true 0 0), .idle, 0) ∧
      reading (step (pending 0x00 (List.replicate 513 0) (withReading (at' .idle [])))) =
        some (true, 0x0064, 0x0032) := by decide

/-- I-7: the second marker byte commits. -/
theorem test_marker_data_commits :
    seen (step (pending 0x00 [0x4D] (at' .idle [0x42]))) =
      some (some (.ingest .none false 0 0), .readingFrame, 2) := by decide

/-- I-16: the largest sum and the largest fields. -/
theorem test_marker_data_largest_frame :
    seen (exec .markerData (at' .idle f2)) =
        some (some (.ingest .frameValid false 0xFFFF 0xFFFF), .idle, 0) ∧
      reading (exec .markerData (at' .idle f2)) = some (true, 0xFFFF, 0xFFFF) := by decide

/-- Section 1.2: F1x is invalid and the earlier Reading stays (P2, operation 6). -/
theorem test_invalid_frame_keeps_reading :
    seen (step (pending 0x00 f1x (withReading (at' .idle [])))) =
        some (some (.ingest .frameInvalid false 0 0), .idle, 0) ∧
      reading (step (pending 0x00 f1x (withReading (at' .idle [])))) = some (true, 0x0064, 0x0032) := by decide

set_option maxRecDepth 8000 in
/-- I-25: 2 + 510 bytes are no overflow; the frame is invalid and 480 bytes stay. -/
theorem test_lookahead_stays :
    seen (step (pending 0x00 (List.replicate 510 0) (at' .readingFrame [0x42, 0x4D]))) =
      some (some (.ingest .frameInvalid false 0 0), .idle, 480) := by decide

/-- I-8: an acknowledgement loses the frame behind it. -/
theorem test_ack_ok_clears_frame :
    seen (step (pending 0x00 ([0xA5, 0xA5] ++ f1) (at' .idle []))) =
      some (some (.ingest .ackOk false 0 0), .idle, 0) := by decide

/-- I-2. -/
theorem test_ack_error :
    seen (step (pending 0x00 [0x96, 0x96] (at' .idle []))) = some (some (.ingest .ackError false 0 0), .idle, 0) := by
  decide

/-- I-11: half of one acknowledgement and half of the other. -/
theorem test_marker_other :
    seen (step (pending 0x00 [0xA5, 0x96] (at' .idle []))) = some (some (.ingest .ignored false 0 0), .idle, 0) := by
  decide

/-- I-10: a frame behind one noise byte is lost. -/
theorem test_marker_other_loses_frame :
    seen (step (pending 0x00 f1 (at' .idle [0x55]))) = some (some (.ingest .ignored false 0 0), .idle, 0) := by decide

/-- R-1. -/
theorem test_read_after_reset :
    seen (step (pending 0x40 [] State.reset)) = some (some (.read false 0 0), .idle, 0) := by decide

/-- R-2. -/
theorem test_read_after_frame :
    seen (step (pending 0x40 [] (withReading (at' .idle [])))) = some (some (.read true 0x0064 0x0032), .idle, 0) := by
  decide

/-- E-5: in ReadingFrame, the decoder state unchanged. -/
theorem test_encode_start :
    seen (step (pending 0x80 [] (at' .readingFrame (f1.take 10)))) =
      some (some (.encode ⟨0x68, 0x01, 0x01, 0x96⟩), .readingFrame, 10) := by decide

/-- E-2. -/
theorem test_encode_stop :
    seen (exec .encodeStop State.reset) = some (some (.encode ⟨0x68, 0x01, 0x02, 0x95⟩), .idle, 0) := by decide

/-- E-3. -/
theorem test_encode_on :
    seen (exec .encodeAutosendOn State.reset) = some (some (.encode ⟨0x68, 0x01, 0x40, 0x57⟩), .idle, 0) := by decide

/-- E-4. -/
theorem test_encode_off :
    seen (exec .encodeAutosendOff State.reset) = some (some (.encode ⟨0x68, 0x01, 0x20, 0x77⟩), .idle, 0) := by decide

/-- X-1. -/
theorem test_reset :
    seen (step (pending 0xC0 [] (withReading (at' .readingFrame [0x42, 0x4D, 0x00])))) = some (some .reset, .idle, 0) ∧
      reading (step (pending 0xC0 [] (withReading (at' .readingFrame [0x42, 0x4D, 0x00])))) = some (false, 0, 0) := by
  decide

/-- X-3: no response, no change, the mark set. -/
theorem test_refused_word :
    after (step (pending 0x44 [] (withReading (at' .idle [0x55])))) =
      some { withReading (at' .idle [0x55]) with refusalMark := some (.illegalWord 0x44) } := by decide

set_option maxRecDepth 8000 in
/-- X-5: n = MAX_CHUNK + 1, here with MAX_CHUNK = 2 and a full buffer. -/
theorem test_refused_chunk :
    after (exec (.ingest [1, 2, 3]) { at' .idle (List.replicate 512 0) with maxChunk := 2 }) =
      some { at' .idle (List.replicate 512 0) with maxChunk := 2, refusalMark := some (.chunkTooLong 3) } := by decide

/-- R207: RESET keeps the mark. -/
theorem test_reset_keeps_mark :
    ((after (exec .reset { State.reset with refusalMark := some (.illegalWord 1) })).map (·.refusalMark)) =
      some (some (.illegalWord 1)) := by decide

/-! ### Witnesses: states and operands that meet every hypothesis of the statement named -/

theorem witness_DecodeOfEncodeIsTheInstruction :
    (Instr.ingest []).wf = true ∧ (Instr.markerOther 0x424E#16).wf = true := by decide

theorem witness_MarkerMapRows :
    decode (.marker 0x42#8 0x4E#8) ≠ some .markerData ∧ decode (.marker 0x42#8 0x4E#8) ≠ some .markerAckOk ∧
      decode (.marker 0x42#8 0x4E#8) ≠ some .markerAckError := by decide

theorem witness_StepRunsTheDecodedRequest :
    (pending 0x83 [] State.reset).requests = [⟨.ingestAgent, 0x83, []⟩] ∧
      decodeRequest 0x83#8 [] = some .encodeAutosendOff := by decide

set_option maxRecDepth 8000 in
/-- At both ends of the length's range, 2 and 512. -/
theorem witness_DrainRunsTheFrontMarker : ∀ n ∈ [0, 510],
    (pending 0x00 [] (at' .idle (0x96 :: 0x96 :: List.replicate n 0))).requests = [⟨.ingestAgent, 0x00, []⟩] ∧
      2 ≤ (at' .idle (0x96 :: 0x96 :: List.replicate n 0)).buf.length ∧
      (at' .idle (0x96 :: 0x96 :: List.replicate n 0)).buf.length ≤ 512 ∧
      decode (.marker 0x96#8 0x96#8) = some .markerAckError := by decide

theorem witness_IngestRunsTheFrontMarker :
    fits [0x4D#8] (at' .idle [0x42]) ∧ (at' .idle [0x42]).st = .idle ∧
      2 ≤ ((at' .idle [0x42]).buf ++ [0x4D#8]).length ∧ decode (.marker 0x42#8 0x4D#8) = some .markerData := by decide

theorem witness_IllegalWordIsRefused : ∀ w ∈ [0x01#8, 0x7F#8, 0x84#8, 0xBF#8, 0xC1#8, 0xFF#8],
    (pending w [] State.reset).requests = [⟨.ingestAgent, w, []⟩] ∧
      w ∉ [0x00#8, 0x40#8, 0x80#8, 0x81#8, 0x82#8, 0x83#8, 0xC0#8] := by decide

theorem witness_NoRequestNoChange : State.reset.requests = [] := by decide

theorem witness_PlacedRequestWordRunsNext : decodeTableWord 8 0x40 = some .read := by decide

set_option maxRecDepth 8000 in
/-- At both ends of the length's range. -/
theorem witness_PlacedMarkerRunsNext :
    (at' .readingFrame []).buf.length ≤ 512 ∧ (at' .idle (List.replicate 512 0)).buf.length ≤ 512 ∧
      decodeTableWord 16 (0x9696#16).toNat = some .markerAckError := by decide

set_option maxRecDepth 8000 in
/-- The first length that overflows. -/
theorem witness_OverflowDiscardsEverything :
    [0#8].length ≤ (at' .idle (List.replicate 512 0)).maxChunk ∧
      512 < (at' .idle (List.replicate 512 0)).buf.length + [0#8].length := by decide

/-- The first length above MAX_CHUNK, here 0. -/
theorem witness_LongChunkIsRefused : (State.powerOn 0).maxChunk < [0#8].length := by decide

theorem witness_TooFewBytesEndWithNoEvent :
    fits [0x42#8] (at' .idle []) ∧ ((at' .idle []).buf ++ [0x42#8]).length < 2 ∧ BufferInv (at' .idle []) := by decide

theorem witness_AckOkMarkerClearsTheBuffer :
    fits [0xA5#8] (at' .idle [0xA5]) ∧ (at' .idle [0xA5]).st = .idle ∧
      ((at' .idle [0xA5]).buf ++ [0xA5#8]).getD 0 0 = 0xA5#8 ∧
      ((at' .idle [0xA5]).buf ++ [0xA5#8]).getD 1 0 = 0xA5#8 := by decide

theorem witness_AckErrorMarkerClearsTheBuffer :
    fits [0x96#8, 0x96#8] (at' .idle []) ∧ (at' .idle []).st = .idle ∧
      ((at' .idle []).buf ++ [0x96#8, 0x96#8]).getD 0 0 = 0x96#8 ∧
      ((at' .idle []).buf ++ [0x96#8, 0x96#8]).getD 1 0 = 0x96#8 := by decide

theorem witness_OtherMarkerClearsTheBuffer :
    fits f1 (at' .idle [0x13]) ∧ (at' .idle [0x13]).st = .idle ∧ 2 ≤ ((at' .idle [0x13]).buf ++ f1).length ∧
      (0x1342#16).toNat = (((at' .idle [0x13]).buf ++ f1).getD 0 0).toNat * 256 +
        (((at' .idle [0x13]).buf ++ f1).getD 1 0).toNat ∧
      (0x1342#16 ≠ 0x424D#16 ∧ 0x1342#16 ≠ 0xA5A5#16 ∧ 0x1342#16 ≠ 0x9696#16) := by decide

/-- The greatest length that still waits, 31. -/
theorem witness_ShortFrameAwaitsMoreBytes :
    fits [0#8] (at' .readingFrame (f1.take 30)) ∧ (at' .readingFrame (f1.take 30)).st = .readingFrame ∧
      ((at' .readingFrame (f1.take 30)).buf ++ [0#8]).length < 32 := by decide

/-- The least and the greatest length, 2 and 31. -/
theorem witness_DataMarkerCommitsToAFrame : ∀ n ∈ [2, 31],
    fits (f1.take n) (at' .idle []) ∧ (at' .idle []).st = .idle ∧ markerInFront ((at' .idle []).buf ++ f1.take n) ∧
      ((at' .idle []).buf ++ f1.take n).length < 32 := by decide

set_option maxRecDepth 8000 in
/-- From ReadingFrame with exactly 32 bytes, and from Idle with exactly 512. -/
theorem witness_ValidFrameUpdatesTheReading :
    (fits (f1.drop 31) (at' .readingFrame (f1.take 31)) ∧ (at' .readingFrame (f1.take 31)).st = .readingFrame ∧
      32 ≤ ((at' .readingFrame (f1.take 31)).buf ++ f1.drop 31).length ∧
      sumMatches ((at' .readingFrame (f1.take 31)).buf ++ f1.drop 31)) ∧
    (fits (f2 ++ List.replicate 480 0) (at' .idle []) ∧
      ((at' .idle []).st = .idle ∧ markerInFront ((at' .idle []).buf ++ (f2 ++ List.replicate 480 0))) ∧
      32 ≤ ((at' .idle []).buf ++ (f2 ++ List.replicate 480 0)).length ∧
      sumMatches ((at' .idle []).buf ++ (f2 ++ List.replicate 480 0))) := by decide

theorem witness_InvalidFrameKeepsTheReading :
    (fits (f1x.drop 31) (at' .readingFrame (f1x.take 31)) ∧ (at' .readingFrame (f1x.take 31)).st = .readingFrame ∧
      32 ≤ ((at' .readingFrame (f1x.take 31)).buf ++ f1x.drop 31).length ∧
      ¬ sumMatches ((at' .readingFrame (f1x.take 31)).buf ++ f1x.drop 31)) ∧
    (fits f1x (at' .idle []) ∧ ((at' .idle []).st = .idle ∧ markerInFront ((at' .idle []).buf ++ f1x)) ∧
      32 ≤ ((at' .idle []).buf ++ f1x).length ∧ ¬ sumMatches ((at' .idle []).buf ++ f1x)) := by decide

set_option maxRecDepth 8000 in
/-- Where its two clauses meet, 31 and 32, and at the ends, 2 and 512. -/
theorem witness_MarkerDataGoesOnToTheFrame : ∀ n ∈ [2, 31, 32, 512],
    2 ≤ (at' .idle (List.replicate n 0)).buf.length ∧ (at' .idle (List.replicate n 0)).buf.length ≤ 512 := by decide

set_option maxRecDepth 8000 in
/-- An event with fields, an overflow, and an event without fields. -/
theorem witness_IngestResponseAndFrame :
    (f1.length ≤ (at' .idle []).maxChunk ∧ seen (exec (.ingest f1) (at' .idle [])) =
      some (some (.ingest .frameValid false 0x0064 0x0032), .idle, 0)) ∧
    ((List.replicate 513 (0#8)).length ≤ (at' .idle []).maxChunk ∧
      seen (exec (.ingest (List.replicate 513 0)) (at' .idle [])) = some (some (.ingest .none true 0 0), .idle, 0)) ∧
    (([] : List Byte).length ≤ (at' .idle []).maxChunk ∧
      seen (exec (.ingest []) (at' .idle [])) = some (some (.ingest .none false 0 0), .idle, 0)) := by decide

theorem witness_ReadIsNeverTorn :
    ReadingInv (withReading (at' .idle [])) ∧ (withReading (at' .idle [])).rdValid = true := by decide

theorem witness_TwiceIsOnceForReadEncodeReset :
    Instr.reset ∈ [Instr.read, .encodeStart, .encodeStop, .encodeAutosendOn, .encodeAutosendOff, .reset] := by decide

theorem witness_EveryStepKeepsBufferInv :
    BufferInv (pending 0x00 [0x4D] (at' .readingFrame (f1.take 31))) ∧
      ∃ t, step (pending 0x00 [0x4D] (at' .readingFrame (f1.take 31))) = .next t := ⟨by decide, _, rfl⟩

theorem witness_EveryStepKeepsReadingInv :
    ReadingInv (pending 0x00 f1x (withReading (at' .idle []))) ∧
      ∃ t, step (pending 0x00 f1x (withReading (at' .idle []))) = .next t := ⟨by decide, _, rfl⟩

/-- Exactly two bytes of lookahead behind an extracted frame. -/
theorem witness_IdleWithBytesOnlyAfterExtraction :
    (f1 ++ [0xA5, 0xA5]).length ≤ (at' .idle []).maxChunk ∧
      seen (exec (.ingest (f1 ++ [0xA5, 0xA5])) (at' .idle [])) =
        some (some (.ingest .frameValid false 0x0064 0x0032), .idle, 2) := by decide

theorem witness_OnlyResetMakesTheReadingUnavailable :
    (pending 0xC0 [] (withReading (at' .idle []))).rdValid = true ∧
      reading (step (pending 0xC0 [] (withReading (at' .idle [])))) = some (false, 0, 0) := by decide

theorem witness_OnlyIngestAndResetWriteTheBlock :
    ∃ t, step (pending 0x00 [0x42] (at' .idle [])) = .next t ∧ ¬ sameBlock (pending 0x00 [0x42] (at' .idle [])) t :=
  ⟨_, rfl, by decide⟩

/-- READ and ENCODE by a reader and by the command agent, in ReadingFrame. -/
theorem witness_OnlyTheIngestAgentWrites :
    ∀ r ∈ [(⟨.reader 7, 0x40, []⟩ : Request), ⟨.reader 7, 0x80, []⟩, ⟨.commandAgent, 0x40, []⟩, ⟨.commandAgent, 0x83, []⟩],
      dutiful r = true ∧ r.issuer ≠ .ingestAgent ∧
        (after (step { at' .readingFrame [0x42, 0x4D] with requests := [r] })).isSome = true := by decide

theorem witness_ReadInEitherOrder : f1.length ≤ (at' .idle []).maxChunk := by decide

theorem witness_RefusalMarkIsKept :
    ({ pending 0xC0 [] State.reset with refusalMark := some (.illegalWord 1) } : State).refusalMark =
        some (.illegalWord 1) ∧
      ((after (step { pending 0xC0 [] State.reset with refusalMark := some (.illegalWord 1) })).map (·.refusalMark)) =
        some (some (.illegalWord 1)) ∧
      ((after (step (pending 0xC0 [] State.reset))).map (·.refusalMark)) = some none := by decide

/-- One response, a refused word, a refused chunk. -/
theorem witness_OneResponseOrARefusal : ∀ p ∈ [(0x40#8, ([] : List Byte)), (0x41#8, []), (0x00#8, [0#8])],
    (after (step (pending p.1 p.2 (State.powerOn 0)))).isSome = true := by decide

/-- Chunks of 1, 0, 30, 1 and 0 bytes. -/
theorem witness_SplitInvarianceOfAValidFrame :
    validFrame f1 ∧ [f1.take 1, [], (f1.drop 1).take 30, f1.drop 31, []].flatten = f1 ∧
      (∀ c ∈ [f1.take 1, [], (f1.drop 1).take 30, f1.drop 31, []], c.length ≤ (at' .idle []).maxChunk) ∧
      (at' .idle []).buf = [] ∧ (at' .idle []).st = .idle := by decide

/-- At the ends of both clauses: offsets 0, 1, 2 and 31. -/
theorem witness_OneCorruptedByteIsNeverAccepted : ∀ i ∈ [0, 1, 2, 31],
    validFrame f1 ∧ i < 32 ∧ 0xFF#8 ≠ f1.getD i 0 ∧ 32 ≤ (at' .idle []).maxChunk ∧
      seen (exec (.ingest (f1.set i 0xFF#8)) (at' .idle [])) =
        some (some (.ingest (if i < 2 then .ignored else .frameInvalid) false 0 0), .idle, 0) := by decide

/-- The largest sum; and a checksum field just below and just above the range. -/
theorem witness_ChecksumSumRange :
    (f2.length = 32 ∧ markerInFront f2 ∧ frameSum f2 = 0x1C73) ∧
    (∀ c ∈ [[0x00#8, 0x8E#8], [0x1C#8, 0x74#8]], (f1.take 30 ++ c).length = 32 ∧ markerInFront (f1.take 30 ++ c) ∧
      ((frameChecksum (f1.take 30 ++ c)).toNat < 0x008F ∨ 0x1C73 < (frameChecksum (f1.take 30 ++ c)).toNat)) := by decide

set_option maxRecDepth 8000 in
/-- The least overflow with one byte held, n = 512 (I-26), and noise that fits, n = 511 (I-27). -/
theorem witness_NoiseIsDiscarded : ∀ n ∈ [512, 511],
    (List.replicate n (0#8)).length ≤ (at' .idle [0x55]).maxChunk ∧ (at' .idle [0x55]).st = .idle ∧
      ¬ markerInFront ((at' .idle [0x55]).buf ++ List.replicate n (0#8)) ∧
      (after (exec (.ingest (List.replicate n 0)) (at' .idle [0x55]))).isSome = true := by decide

set_option maxRecDepth 8000 in
/-- The greatest drained length, 31, and the greatest chunk, 481. -/
theorem witness_DrainedBlockTakesAModestChunk :
    BufferInv (at' .readingFrame (f1.take 31)) ∧
      seen (exec Instr.drain (at' .readingFrame (f1.take 31))) =
        some (some (.ingest .none false 0 0), .readingFrame, 31) ∧
      modestChunk (List.replicate 481 (0#8)) ∧ (List.replicate 481 (0#8)).length ≤ (at' .idle []).maxChunk := by decide

/-- A DRAIN that removes exactly two bytes. -/
theorem witness_EventfulDrainRemovesBytes :
    BufferInv (at' .idle [0xA5, 0xA5]) ∧
      seen (exec Instr.drain (at' .idle [0xA5, 0xA5])) = some (some (.ingest .ackOk false 0 0), .idle, 0) := by decide

set_option maxRecDepth 8000 in
/-- The greatest length held and the greatest chunk. -/
theorem witness_DisciplinedHostNeverOverflows :
    BufferInv (at' .readingFrame (f1.take 31)) ∧ (at' .readingFrame (f1.take 31)).buf.length ≤ 31 ∧
      ∀ c ∈ [[], List.replicate 481 (0#8)], modestChunk c ∧ c.length ≤ (at' .readingFrame (f1.take 31)).maxChunk := by
  decide

/-- The three ways into ReadingFrame. -/
theorem witness_FrameStartsOnlyAtTheFront :
    ∀ p ∈ [(([] : List Byte), [0x42#8, 0x4D#8]), ([0x42#8], [0x4D#8]), ([0x42#8, 0x4D#8], [])],
      (at' .idle p.1).st = .idle ∧ seen (exec (.ingest p.2) (at' .idle p.1)) =
        some (some (.ingest .none false 0 0), .readingFrame, 2) := by decide

/-- A session around a block in ReadingFrame. -/
def session (started : Bool) : Session := { Session.opened (at' .readingFrame [0x42, 0x4D]) 20 with started := started }

/-- The session afterwards. -/
def sessionAfter : SessionResult → Option Session
  | .next h => some h
  | .fault _ => none
  | .refused _ => none

/-- R234, in the middle of a start: a delivery during the pause is an INGEST, and the call keeps its tasks. -/
theorem test_delivery_in_the_pause :
    (sessionAfter (hostReact (.deliver [0xA5, 0xA5])
      { session false with block := State.reset, tasks := [.send 2, .setStarted true] })).map
        (fun h => (h.block.responses, h.tasks)) =
      some ([.ingest .ackOk false 0 0], [.send 2, .setStarted true]) := by decide

/-- R206: a failed write of STOP is surfaced; the second command is not sent and the session stays started. -/
theorem test_failed_write :
    (sessionAfter (hostReact (.proceed .faulted 0) { session true with tasks := stopPlan })).map
        (fun h => (h.answers, h.tasks, h.started, h.trace)) =
      some ([.transportFault], [], true, [.writeFailed [0x68, 0x01, 0x02, 0x95]]) := by decide

/-- R212, row command, in the pause of a start: AUTOSEND_OFF is written at once, and the call keeps its tasks. -/
theorem test_command_in_the_pause :
    (sessionAfter (hostReact (.command .commandAgent 3 .accepted)
      { session false with tasks := [.send 2, .setStarted true] })).map (fun h => (h.trace, h.tasks, h.commandAnswers)) =
      some ([.wrote [0x68, 0x01, 0x20, 0x77]], [.send 2, .setStarted true], [.completed]) := by decide

/-- R141: a poll with valid = 0 is unavailable, whatever the fields. -/
theorem test_poll_unavailable :
    (sessionAfter (hostReact (.poll (.reader 0)) { session false with
      block := { State.reset with rdPm25 := 0x1234#16 } })).map (·.polls) =
      some [(.reader 0, .unavailable)] := by decide

/-- With a delivery, a poll and a single command between the two commands, and with nothing arriving. -/
theorem witness_StartWritesTheStartPair :
    (session false).started = false ∧ noCall (session false) ∧
      ∀ es ∈ [startEvents 5, (startEvents 5).take 4 ++ [.deliver [0xA5, 0xA5], .poll (.reader 1),
        .command .commandAgent 3 .accepted] ++ (startEvents 5).drop 4], ownEvents es = startEvents 5 := by decide

theorem witness_StartWhenStartedDoesNothing : (session true).started = true ∧ noCall (session true) := by decide

theorem witness_StopTwiceWritesTheSamePair :
    noCall (session true) ∧
      ∀ es ∈ [stopEvents 0, (stopEvents 0).take 4 ++ [.transportFault, .command (.reader 2) 0 .faulted, .deliver [0x42]] ++ (stopEvents 0).drop 4],
        ownEvents es = stopEvents 0 := by decide

theorem witness_FailedWriteEndsOnlyTheCall :
    ({ session true with tasks := stopPlan } : Session).tasks = .send 1 :: stopPlan.tail := by decide

theorem witness_FailedStartCanBeMadeAgain :
    (session false).started = false ∧ noCall (session false) ∧
      ownEvents (.call .start :: (List.replicate 4 (.proceed .accepted 0) ++ [.poll (.reader 2), .proceed .faulted 0])) =
        .call .start :: (List.replicate 4 (.proceed .accepted 0) ++ [.proceed .faulted 0]) ∧
      ownEvents (startEvents 1) = startEvents 1 := by decide

/-- In the middle of a start, just before its second command: the first written, the wait exactly SETTLE_DELAY, and a
single command after it. -/
theorem witness_EveryHostEventKeepsSettleInv :
    SettleInv { session false with
      tasks := [.send 2, .setStarted true],
      trace := [.wrote [0x68, 0x01, 0x01, 0x96], .waited 20, .wrote [0x68, 0x01, 0x20, 0x77]] } ∧
    (sessionAfter (hostReact (.proceed .accepted 0) { session false with
      tasks := [.send 2, .setStarted true],
      trace := [.wrote [0x68, 0x01, 0x01, 0x96], .waited 20, .wrote [0x68, 0x01, 0x20, 0x77]] })).isSome = true :=
  ⟨⟨.inl (by decide), ⟨by simp, fun _ => ⟨[], [], 20, [.wrote [0x68, 0x01, 0x20, 0x77]], rfl, by decide, by decide⟩⟩,
    ⟨by simp, by simp⟩⟩, by decide⟩

theorem witness_HostReactions :
    (∃ t, exec (.ingest f1) (session true).block = .next t) ∧ ∃ t, exec .read (session true).block = .next t :=
  ⟨⟨_, rfl⟩, _, rfl⟩

end Sys2Proof.Tests
end

section
/-! SUPPORT. Who can take the Reading away (10_state.md R31): an INGEST, a READ, an ENCODE, a refusal and an idle step
keep rd_valid when it is 1, which leaves RESET. -/

namespace Sys2Proof.Machine

/-- A request other than INGEST and RESET leaves the architectural tuple as it was (R53). -/
theorem sameBlock_of_exec_request {w : Byte} {d : List Byte} {i : Instr} {s t : State}
    (hd : decodeRequest w d = some i) (hi : i ≠ .ingest d) (hr : i ≠ .reset) (h : exec i s = .next t) :
    sameBlock s t := by
  obtain hIngest | rfl | rfl | rfl | rfl | rfl | hReset := decodeRequest_cases hd
  · exact absurd hIngest hi
  pick_goal 6
  · exact absurd hReset hr
  all_goals cases h; exact ⟨rfl, rfl, rfl, rfl, rfl⟩

/-- On every path an INGEST leaves the Reading's validity as it was, or sets it. -/
theorem exec_ingest_rdValid {c : List Byte} {s t : State} (h : exec (.ingest c) s = .next t) :
    t.rdValid = s.rdValid ∨ t.rdValid = true := by
  obtain ⟨_, rfl⟩ | ⟨_, _, rfl⟩ | ⟨_, _, rfl⟩ | ⟨_, _, _, _, _, _, rfl⟩ | ⟨_, _, _, hFrame⟩ := exec_ingest_cases h
  · exact .inl rfl -- refused (R207)
  · exact .inl rfl -- overflow (R101)
  · exact .inl rfl -- too few bytes (R103)
  · exact .inl rfl -- acknowledgement or ignored marker (R105 to R107)
  · obtain ⟨_, rfl⟩ | ⟨_, _, _, rfl⟩ | ⟨_, rfl⟩ := hFrame
    · exact .inl rfl -- awaiting more bytes (R108)
    · exact .inr rfl -- valid frame (R114)
    · exact .inl rfl -- invalid frame (R115)

/-- Settles O38, by what one step can do: only a decoded RESET is left. -/
theorem onlyResetMakesTheReadingUnavailable : Obligations.OnlyResetMakesTheReadingUnavailable := by
  intro s t h hs ht
  obtain ⟨_, rfl⟩ | ⟨_, _, _, _, rfl⟩ | ⟨r, rest, i, hr, hd, he⟩ := step_cases h
  · simp [hs] at ht
  · simp [hs] at ht
  · refine ⟨r, rest, hr, ?_⟩
    by_cases hReset : i = .reset
    · rw [hd, hReset]
    by_cases hIngest : i = .ingest r.data
    · subst hIngest
      have hValid := exec_ingest_rdValid he
      simp [hs, ht] at hValid
    · obtain ⟨_, _, hValid, _, _⟩ := sameBlock_of_exec_request hd hIngest hReset he
      simp [hs, ht] at hValid

end Sys2Proof.Machine
end

section
/-! SUPPORT. Where a valid Reading comes from (10_state.md R33 (c), R48): of all responses only FRAME_VALID makes it
valid, and it writes both fields at once, so both are found in one response of the run. -/

namespace Sys2Proof.Machine

@[simp] theorem readingOf_nil : readingOf [] = (false, 0x0000#16, 0x0000#16) := rfl

@[simp] theorem readingOf_append_singleton (rs : List Response) (r : Response) :
    readingOf (rs ++ [r]) = readingAfter (readingOf rs) r := by
  simp [readingOf]

/-- After one more response a valid Reading is the one held before, or has both fields of that response. -/
theorem readingAfter_eq_valid {old : Bool × Word16 × Word16} {r : Response} {p q : Word16}
    (h : readingAfter old r = (true, p, q)) :
    old = (true, p, q) ∨ ∃ ovf, r = .ingest .frameValid ovf p q := by
  cases r with
  | ingest evt ovf p25 p10 =>
    cases evt
    case frameValid => cases h; exact .inr ⟨ovf, rfl⟩
    all_goals exact .inl h -- the other five events keep the Reading (R31)
  | read | encode => exact .inl h
  | reset => cases h -- unavailable after RESET (R170)

/-- Both fields of a valid Reading stand in one FRAME_VALID response of the run. -/
theorem frameValid_mem_of_readingOf {rs : List Response} {p q : Word16} (h : readingOf rs = (true, p, q)) :
    ∃ ovf, Response.ingest .frameValid ovf p q ∈ rs := by
  induction rs using List.reverseRecOn with
  | nil => simp at h
  | append_singleton rs r ih =>
    rw [readingOf_append_singleton] at h
    obtain hOld | ⟨ovf, rfl⟩ := readingAfter_eq_valid h
    · obtain ⟨ovf, hMem⟩ := ih hOld
      exact ⟨ovf, List.mem_append_left _ hMem⟩
    · exact ⟨ovf, by simp⟩

/-- Settles O27: READ returns the Reading held, which the invariant finds in the run's responses. -/
theorem readIsNeverTorn : Obligations.ReadIsNeverTorn := by
  intro s hInv
  refine ⟨s.rdValid, s.rdPm25, s.rdPm10, rfl, fun hValid => frameValid_mem_of_readingOf ?_⟩
  rw [← hInv, hValid]

end Sys2Proof.Machine
end

section
/-! SUPPORT. INGEST path by path (40_ingest.md sections 3 to 9): too few bytes, a marker that clears the buffer, a frame
still awaited, a whole frame judged. Each path has one equation, which names the state the INGEST answers. -/

namespace Sys2Proof.Machine

/-- An INGEST that fits is an append and then the synchronizer (R102). -/
theorem exec_ingest_of_fits {c : List Byte} {s : State} (hf : fits c s) :
    exec (.ingest c) s = synchronize (append c s) :=
  execIngest_of_fits hf

/-! ### Too few bytes -/

/-- Fewer than two bytes after the append end the operation with no event (R103). -/
theorem exec_ingest_of_length_lt_two {c : List Byte} {s : State} (hf : fits c s) (h : (s.buf ++ c).length < 2) :
    exec (.ingest c) s = .next (emit .none (append c s)) := by
  rw [exec_ingest_of_fits hf, synchronize, State.len_eq, append_buf, if_pos h]

/-- Settles O15. That only Idle holds so few bytes is the lower bound of R33 (b). -/
theorem tooFewBytesEndWithNoEvent : Obligations.TooFewBytesEndWithNoEvent := by
  intro c s hf hLen
  refine ⟨⟨_, rfl, exec_ingest_of_length_lt_two hf hLen⟩, fun ⟨_, hReading⟩ => ?_⟩
  cases hst : s.st with
  | idle => rfl
  | readingFrame =>
    have hTwo := (hReading hst).1
    simp only [List.length_append] at hLen
    omega

/-! ### A marker that clears the buffer -/

/-- A second byte other than 0x00 is held, since beyond the buffer's end 0x00 is read: the two bytes are the front
marker (R68, R42). -/
theorem frontMarker_of_bytes {b : List Byte} {x y : Byte} (h0 : b.getD 0 0 = x) (h1 : b.getD 1 0 = y) (hy : y ≠ 0) :
    2 ≤ b.length ∧ frontMarker b = be16 x y := by
  refine ⟨?_, by rw [frontMarker_eq, h0, h1]⟩
  by_contra hShort
  exact hy (h1.symm.trans (List.getD_eq_default _ _ (by omega)))

/-- In Idle an INGEST runs the marker at the front of the appended buffer (R68, R102). -/
theorem exec_ingest_of_idle {c : List Byte} {s : State} (hf : fits c s) (hst : s.st = .idle)
    (h2 : 2 ≤ (s.buf ++ c).length) :
    exec (.ingest c) s = exec (decodeMarker (frontMarker (s.buf ++ c))) (append c s) := by
  rw [exec_ingest_of_fits hf, synchronize, State.len_eq, append_buf, if_neg (Nat.not_lt.2 h2), append_st, hst]
  exact classifyFront_eq_exec _

/-- The common shape of R105, R106 and R107: an INGEST that finds a clearing marker in Idle, and that marker's own
operation on the appended buffer, answer the same state, with the buffer empty and the marker's event. -/
theorem exec_ingest_of_clearingMarker {c : List Byte} {s : State} {i : Instr} {e : Event} (hf : fits c s)
    (hst : s.st = .idle) (h2 : 2 ≤ (s.buf ++ c).length) (hi : decodeMarker (frontMarker (s.buf ++ c)) = i)
    (he : ∀ t, exec i t = .next (clearAndEmit e t)) :
    ∃ r : Response, r.event = some e ∧
      exec (.ingest c) s = .next { s with buf := [], st := .idle, responses := s.responses ++ [r] } ∧
      exec i { s with buf := s.buf ++ c } =
        .next { s with buf := [], st := .idle, responses := s.responses ++ [r] } := by
  have hRun : exec i (append c s) = .next { s with
      buf := [], st := .idle, responses := s.responses ++ [.ingest e false 0x0000#16 0x0000#16] } := by
    rw [he, ← hst]
    rfl
  have hIngest : exec (.ingest c) s = exec i (append c s) := hi ▸ exec_ingest_of_idle hf hst h2
  exact ⟨_, rfl, hIngest.trans hRun, hRun⟩

/-- Settles O16. -/
theorem ackOkMarkerClearsTheBuffer : Obligations.AckOkMarkerClearsTheBuffer := by
  intro c s hf hst h0 h1
  obtain ⟨hLen, hFront⟩ := frontMarker_of_bytes h0 h1 (by decide)
  exact exec_ingest_of_clearingMarker hf hst hLen (by rw [hFront]; decide) fun _ => rfl

/-- Settles O17. -/
theorem ackErrorMarkerClearsTheBuffer : Obligations.AckErrorMarkerClearsTheBuffer := by
  intro c s hf hst h0 h1
  obtain ⟨hLen, hFront⟩ := frontMarker_of_bytes h0 h1 (by decide)
  exact exec_ingest_of_clearingMarker hf hst hLen (by rw [hFront]; decide) fun _ => rfl

/-- Settles O18: the value of the two front bytes is the marker the decoder reads, and it is in the map's last row. -/
theorem otherMarkerClearsTheBuffer : Obligations.OtherMarkerClearsTheBuffer := by
  intro c s m hf hst hLen hValue hData hOk hError
  have hFront : frontMarker (s.buf ++ c) = m := by
    apply BitVec.eq_of_toNat_eq
    rw [frontMarker_eq, be16_toNat, hValue]
  have hMarker : decodeMarker (frontMarker (s.buf ++ c)) = .markerOther m := by
    rw [hFront, decodeMarker, classifyMarker_other hData hOk hError]
  exact exec_ingest_of_clearingMarker hf hst hLen hMarker fun _ => rfl

/-! ### A frame -/

/-- An INGEST committed to a frame, before it or by the marker it finds in front, goes on to the frame (R104, R108,
R109; D6). -/
theorem exec_ingest_of_committed {c : List Byte} {s : State} (hf : fits c s)
    (hst : s.st = .readingFrame ∨ s.st = .idle ∧ markerInFront (s.buf ++ c)) (h2 : 2 ≤ (s.buf ++ c).length) :
    exec (.ingest c) s = .next (collectFrame (setSt .readingFrame (append c s))) := by
  obtain hReading | ⟨hIdle, hFront⟩ := hst
  · rw [exec_ingest_of_fits hf, synchronize, State.len_eq, append_buf, if_neg (Nat.not_lt.2 h2), append_st,
      hReading, setSt_of_eq (s := append c s) hReading]
  · rw [exec_ingest_of_idle hf hIdle h2, (frontMarker_eq_data_iff _).2 hFront]
    rfl

/-- Settles O19. With fewer than two bytes it is R103 that ends the operation, to the same effect. -/
theorem shortFrameAwaitsMoreBytes : Obligations.ShortFrameAwaitsMoreBytes := by
  intro c s hf hst hShort
  refine ⟨.ingest .none false 0x0000#16 0x0000#16, rfl, ?_⟩
  by_cases hLen : (s.buf ++ c).length < 2
  · exact exec_ingest_of_length_lt_two hf hLen
  · rw [exec_ingest_of_committed hf (.inl hst) (by omega), setSt_of_eq (s := append c s) hst, collectFrame,
      if_pos (by simpa [Config.frameLen] using hShort)]
    rfl

/-- With a whole frame held, an INGEST committed to it takes its 32 bytes from the buffer and judges them (R109). -/
theorem exec_ingest_of_wholeFrame {c : List Byte} {s : State} (hf : fits c s)
    (hst : s.st = .readingFrame ∨ s.st = .idle ∧ markerInFront (s.buf ++ c)) (h32 : 32 ≤ (s.buf ++ c).length) :
    exec (.ingest c) s =
      .next (judgeFrame ((s.buf ++ c).take 32) (setSt .idle (compact 32 (append c s)))) := by
  rw [exec_ingest_of_committed hf hst (by omega), collectFrame,
    if_neg (by simpa [Config.frameLen] using h32)]
  rfl

/-- A field of the extracted frame is its two bytes of the buffer, the earlier one on the left (R42). -/
theorem fieldAt_take {b : List Byte} {n i : Nat} (h : i + 1 < n) :
    fieldAt (b.take n) i = b.getD i 0 ++ b.getD (i + 1) 0 := by
  simp [fieldAt, byteAt, be16_eq_append, List.getD, h, Nat.lt_of_succ_lt h]

/-- Settles O21: the frame passes its checksum test, and its fields are bytes 6 to 9 of the buffer. -/
theorem validFrameUpdatesTheReading : Obligations.ValidFrameUpdatesTheReading := by
  intro c s hf hst h32 hSum
  have hPm25 := fieldAt_take (b := s.buf ++ c) (n := 32) (i := 6) (by omega)
  have hPm10 := fieldAt_take (b := s.buf ++ c) (n := 32) (i := 8) (by omega)
  rw [exec_ingest_of_wholeFrame hf hst h32, judgeFrame, if_pos ((checksumPasses_iff _).2 hSum),
    framePm25, framePm10, hPm25, hPm10]
  rfl

/-- Settles O22: the frame fails its checksum test, so the Reading is not written. -/
theorem invalidFrameKeepsTheReading : Obligations.InvalidFrameKeepsTheReading := by
  intro c s hf hst h32 hSum
  rw [exec_ingest_of_wholeFrame hf hst h32, judgeFrame, if_neg (mt (checksumPasses_iff _).1 hSum)]
  rfl

end Sys2Proof.Machine
end

section
/-! SUPPORT. The two decoders and the encoder agree (30_encoding.md sections 1 and 4), the rows of the marker map, the
event codes, and the command checksum (42_encode.md). -/

namespace Sys2Proof

/-- A marker laid out in stream order is read back whole (R42, R68). -/
theorem decode_rawMarker (m : Word16) : decode (rawMarker m) = some (decodeMarker m) := by
  rw [rawMarker, decode, be16_bytes]

/-- The rows of the marker map: the first three by one value each, the last by all others (R68). -/
theorem decodeMarker_cases (m : Word16) :
    (m = 0x424D#16 ∧ decodeMarker m = .markerData) ∨ (m = 0xA5A5#16 ∧ decodeMarker m = .markerAckOk) ∨
    (m = 0x9696#16 ∧ decodeMarker m = .markerAckError) ∨
    ((m ≠ 0x424D#16 ∧ m ≠ 0xA5A5#16 ∧ m ≠ 0x9696#16) ∧ decodeMarker m = .markerOther m) := by
  obtain ⟨hm, hc⟩ | ⟨hm, hc⟩ | ⟨hm, hc⟩ | ⟨hm, hc⟩ := classifyMarker_cases m
  · exact .inl ⟨hm, by rw [decodeMarker, hc]⟩
  · exact .inr (.inl ⟨hm, by rw [decodeMarker, hc]⟩)
  · exact .inr (.inr (.inl ⟨hm, by rw [decodeMarker, hc]⟩))
  · exact .inr (.inr (.inr ⟨hm, by rw [decodeMarker, hc]⟩))

/-- Settles O1. Of the markers only MARKER_OTHER has a condition, which keeps it off the first three rows. -/
theorem decodeOfEncodeIsTheInstruction : Obligations.DecodeOfEncodeIsTheInstruction := by
  intro i hwf
  cases i with
  | ingest | read | encodeStart | encodeStop | encodeAutosendOn | encodeAutosendOff | reset => rfl
  | markerData | markerAckOk | markerAckError => exact decode_rawMarker _
  | markerOther m =>
    obtain ⟨⟨hData, hOk⟩, hError⟩ : (m ≠ 0x424D#16 ∧ m ≠ 0xA5A5#16) ∧ m ≠ 0x9696#16 := by simpa [Instr.wf] using hwf
    rw [encode, decode_rawMarker, decodeMarker, classifyMarker_other hData hOk hError]

/-- Settles O2. -/
theorem writtenOutWordsDecode : Obligations.WrittenOutWordsDecode := by
  unfold Obligations.WrittenOutWordsDecode
  decide

/-- The legal words of R63, sent with no data bytes. -/
theorem decodeRequest_nil_isSome_iff : ∀ w : Byte, (decodeRequest w []).isSome = true ↔
    w = 0x00#8 ∨ w = 0x40#8 ∨ w = 0x80#8 ∨ w = 0x81#8 ∨ w = 0x82#8 ∨ w = 0x83#8 ∨ w = 0xC0#8 := by
  decide

/-- Settles O3: the data bytes do not matter, and the 256 words are tried. -/
theorem exactlySevenRequestWordsAreLegal : Obligations.ExactlySevenRequestWordsAreLegal := by
  intro w data
  rw [decodeRequest_isSome_data w data []]
  exact decodeRequest_nil_isSome_iff w

/-- Two bytes that show a marker are that marker's two bytes (R42). -/
theorem be16_eq_iff {a b x y : Byte} : be16 a b = be16 x y ↔ a = x ∧ b = y := by
  constructor
  · exact be16_inj
  · rintro ⟨rfl, rfl⟩; rfl

/-- Which marker value each instruction of the map is decoded from. -/
theorem decodeMarker_eq_iff (m : Word16) :
    (decodeMarker m = .markerData ↔ m = 0x424D#16) ∧ (decodeMarker m = .markerAckOk ↔ m = 0xA5A5#16) ∧
    (decodeMarker m = .markerAckError ↔ m = 0x9696#16) := by
  obtain ⟨rfl, _⟩ | ⟨rfl, _⟩ | ⟨rfl, _⟩ | ⟨⟨hData, hOk, hError⟩, hm⟩ := decodeMarker_cases m
  · decide
  · decide
  · decide
  · simp [hm, hData, hOk, hError]

/-- Settles O4: the first three rows fix both bytes, and what is left is the last row. -/
theorem markerMapRows : Obligations.MarkerMapRows := by
  intro a b
  obtain ⟨hData, hOk, hError⟩ := decodeMarker_eq_iff (be16 a b)
  simp only [decode, Option.some.injEq, ne_eq]
  refine ⟨hData.trans be16_eq_data_iff, hOk.trans (be16_eq_iff (x := 0xA5#8) (y := 0xA5#8)),
    hError.trans (be16_eq_iff (x := 0x96#8) (y := 0x96#8)), fun hNotData hNotOk hNotError => ?_⟩
  obtain ⟨_, hm⟩ | ⟨_, hm⟩ | ⟨_, hm⟩ | ⟨_, hm⟩ := decodeMarker_cases (be16 a b)
  · exact absurd hm hNotData
  · exact absurd hm hNotOk
  · exact absurd hm hNotError
  · exact ⟨be16 a b, hm, be16_toNat a b⟩

namespace Machine

/-- Settles O25. -/
theorem eventCodesAreTheTables : Obligations.EventCodesAreTheTables := by
  refine ⟨by decide, fun e => ?_⟩
  cases e <;> decide

/-- Settles O29: the fourth byte is what the sum of the first three lacks to the next multiple of 0x100. -/
theorem commandChecksumCompletesTheSum : Obligations.CommandChecksumCompletesTheSum := by
  intro c0 c1 c2
  rw [commandChecksum, BitVec.toNat_ofNat]
  omega

end Machine

end Sys2Proof
end

section
/-! SUPPORT. The step (20_memory.md section 6): the oldest request is decoded and run, or refused; a marker is run by the
INGEST that finds it in front; and nothing stops the block. -/

namespace Sys2Proof.Machine

/-- Settles O5. -/
theorem stepRunsTheDecodedRequest : Obligations.StepRunsTheDecodedRequest :=
  fun _ _ _ _ hRequests hDecode => step_some hRequests hDecode

/-- Settles O7. -/
theorem ingestRunsTheFrontMarker : Obligations.IngestRunsTheFrontMarker := by
  intro c s m hf hst hLen hDecode
  have hMarker : decodeMarker (frontMarker (s.buf ++ c)) = m := Option.some.inj hDecode
  rw [exec_ingest_of_idle hf hst hLen, hMarker]
  rfl

/-- Appending nothing changes nothing. -/
@[simp] theorem append_nil (s : State) : append [] s = s := by
  simp [append]

/-- A DRAIN fits wherever the capacity is kept (R73, R101). -/
theorem fits_nil {s : State} (h : s.buf.length ≤ 512) : fits [] s :=
  ⟨Nat.zero_le _, h⟩

/-- Settles O6: a DRAIN is an INGEST that appends nothing, so the front marker is the one of the buffer as it stands. -/
theorem drainRunsTheFrontMarker : Obligations.DrainRunsTheFrontMarker := by
  intro s r rest m hRequests hWord hData hst hTwo hCap hDecode
  have hDrain : decodeRequest r.word r.data = some (.ingest []) := by rw [hWord, hData]; rfl
  have hRun := ingestRunsTheFrontMarker [] { s with requests := rest } m (fits_nil hCap) hst
  simp only [List.append_nil] at hRun
  rw [step_some hRequests hDrain, hRun hTwo hDecode]

/-- A word outside the seven of R63 decodes to nothing, whatever data bytes come with it. -/
theorem decodeRequest_eq_none {w : Byte} (data : List Byte)
    (h : w ∉ [0x00#8, 0x40#8, 0x80#8, 0x81#8, 0x82#8, 0x83#8, 0xC0#8]) : decodeRequest w data = none := by
  rw [← Option.not_isSome_iff_eq_none, exactlySevenRequestWordsAreLegal]
  simpa using h

/-- Settles O8. -/
theorem illegalWordIsRefused : Obligations.IllegalWordIsRefused := by
  intro s r rest hRequests hWord
  rw [step_illegal hRequests (decodeRequest_eq_none r.data hWord)]
  rfl

/-- Settles O9. -/
theorem noRequestNoChange : Obligations.NoRequestNoChange :=
  fun _ h => step_none h

/-- A step answers a next state: idle, with its request refused, or by the operation it runs. -/
theorem step_next (s : State) : ∃ t, step s = .next t := by
  cases hRequests : s.requests with
  | nil => exact ⟨_, step_none hRequests⟩
  | cons r rest =>
    cases hDecode : decodeRequest r.word r.data with
    | none => exact ⟨_, step_illegal hRequests hDecode⟩
    | some i =>
      rw [step_some hRequests hDecode]
      exact exec_next i _

/-- Settles O10. -/
theorem everyStepAnswersANextState : Obligations.EveryStepAnswersANextState :=
  ⟨step_next, exec_next⟩

/-- Settles O11. -/
theorem placedRequestWordRunsNext : Obligations.PlacedRequestWordRunsNext :=
  fun _ _ _ hDecode => step_some rfl hDecode

/-- A 16-bit table word is the marker of its value, its two bytes in stream order (R42). -/
theorem rawOfTableWord_marker (m : Word16) : rawOfTableWord 16 m.toNat = some (rawMarker m) := by
  simp [rawOfTableWord]

/-- Settles O12: what is placed is the marker's two bytes at the front in Idle, and a DRAIN that finds them there. -/
theorem placedMarkerRunsNext : Obligations.PlacedMarkerRunsNext := by
  intro s m i hCap hDecode
  rw [decodeTableWord, rawOfTableWord_marker, Option.bind_some] at hDecode
  rw [State.withFetchWord, rawOfTableWord_marker]
  refine drainRunsTheFrontMarker (placeRaw (rawMarker m) s) ⟨.ingestAgent, 0x00#8, []⟩ s.requests i rfl rfl rfl rfl
    ?_ ?_ hDecode
  all_goals
    simp only [rawMarker, placeRaw, placeRequest_buf, placeMarker_buf, List.length_cons, List.length_drop]
    omega

/-- Settles O41. -/
theorem issuerIsNeverLookedAt : Obligations.IssuerIsNeverLookedAt :=
  fun _ _ _ _ _ _ => rfl

end Sys2Proof.Machine
end

section
/-! SUPPORT. INGEST refused or overflowing (40_ingest.md section 2), committing to a frame (section 4), and what every
INGEST leaves (30_encoding.md section 2); then READ, ENCODE, RESET and power-on. -/

namespace Sys2Proof.Machine

/-! ### INGEST -/

/-- An INGEST longer than MAX_CHUNK is refused whatever the buffer holds (R207). -/
theorem exec_ingest_of_tooLong {c : List Byte} {s : State} (h : s.maxChunk < c.length) :
    exec (.ingest c) s = .next (refuse (.chunkTooLong c.length) s) :=
  if_pos (tooLong_eq_true.2 h)

/-- An INGEST past the capacity discards buffer and chunk (R101). -/
theorem exec_ingest_of_overflow {c : List Byte} {s : State} (hMax : c.length ≤ s.maxChunk)
    (hCap : 512 < s.buf.length + c.length) : exec (.ingest c) s = .next (discardAll s) := by
  have hLegal : ¬ tooLong c s = true := by rw [tooLong_eq_true]; omega
  exact (if_neg hLegal).trans (if_pos (overflows_eq_true.2 hCap))

/-- Settles O13. -/
theorem overflowDiscardsEverything : Obligations.OverflowDiscardsEverything :=
  fun _ _ hMax hCap => exec_ingest_of_overflow hMax hCap

/-- Settles O14. -/
theorem longChunkIsRefused : Obligations.LongChunkIsRefused :=
  fun _ _ h => exec_ingest_of_tooLong h

/-- With fewer than 32 bytes in ReadingFrame the block waits (R108). -/
theorem collectFrame_of_short {s : State} (h : s.buf.length < 32) : collectFrame s = emit .none s :=
  if_pos h

/-- With a whole frame in ReadingFrame the block extracts it (R109). -/
theorem collectFrame_of_whole {s : State} (h : 32 ≤ s.buf.length) : collectFrame s = extractFrame s :=
  if_neg (Nat.not_lt.2 h)

/-- The data marker in front takes two bytes, neither being 0x00. -/
theorem two_le_of_markerInFront {b : List Byte} (h : markerInFront b) : 2 ≤ b.length :=
  (frontMarker_of_bytes h.1 h.2 (by decide)).1

/-- A block committed to a frame that is not whole yet waits in ReadingFrame with all its bytes (R104, R108). -/
theorem exec_ingest_of_awaited {c : List Byte} {s : State} (hf : fits c s)
    (hst : s.st = .readingFrame ∨ s.st = .idle ∧ markerInFront (s.buf ++ c)) (h2 : 2 ≤ (s.buf ++ c).length)
    (h32 : (s.buf ++ c).length < 32) :
    exec (.ingest c) s = .next (emit .none (setSt .readingFrame (append c s))) := by
  rw [exec_ingest_of_committed hf hst h2, collectFrame_of_short (by exact h32)]

/-- Settles O20: the INGEST commits and waits, and so does the marker's own operation. -/
theorem dataMarkerCommitsToAFrame : Obligations.DataMarkerCommitsToAFrame := by
  intro c s hf hst hFront h32
  refine ⟨exec_ingest_of_awaited hf (.inr ⟨hst, hFront⟩) (two_le_of_markerInFront hFront) h32, ?_⟩
  rw [exec, execMarkerData, collectFrame_of_short (by exact h32)]
  rfl

/-- Extraction takes 32 bytes off the buffer and ends in Idle, whatever the checksum (R109). -/
theorem extractFrame_buf_st (s : State) :
    (extractFrame s).buf = s.buf.drop 32 ∧ (extractFrame s).st = .idle := by
  obtain ⟨_, hJudge⟩ | ⟨_, hJudge⟩ := judgeFrame_cases (s.buf.take 32) (setSt .idle (compact 32 s))
  all_goals
    rw [show extractFrame s = _ from hJudge]
    exact ⟨rfl, rfl⟩

/-- Settles O23: both operations end in the same collection of a frame, which waits or extracts. -/
theorem markerDataGoesOnToTheFrame : Obligations.MarkerDataGoesOnToTheFrame := by
  intro s hTwo hCap
  have hIngest := exec_ingest_of_committed (c := []) (s := setSt .readingFrame s) (fits_nil hCap) (.inl rfl)
    (by simpa using hTwo)
  rw [append_nil] at hIngest
  refine ⟨_, rfl, hIngest, fun hShort => ?_, fun hWhole => ?_⟩
  · rw [collectFrame_of_short (by exact hShort)]
    exact ⟨rfl, rfl⟩
  · rw [collectFrame_of_whole (by exact hWhole)]
    exact (extractFrame_buf_st _).symm

/-- Settles O24, path by path. -/
theorem ingestResponseAndFrame : Obligations.IngestResponseAndFrame := by
  intro c s t hMax h
  obtain ⟨hLong, _⟩ | ⟨_, hCap, rfl⟩ | ⟨⟨_, hCap⟩, _, rfl⟩ | ⟨⟨_, hCap⟩, _, _, _, e, he, rfl⟩ |
    ⟨⟨_, hCap⟩, _, _, hFrame⟩ := exec_ingest_cases h
  · exact absurd hLong (Nat.not_lt.2 hMax)
  · exact ⟨rfl, rfl, rfl, .none, true, _, _, rfl, by simpa using hCap, fun _ => rfl,
      fun _ => ⟨rfl, rfl, rfl, rfl, rfl⟩, nofun⟩
  · exact ⟨rfl, rfl, rfl, .none, false, _, _, rfl, by simpa using hCap, nofun,
      fun _ => ⟨rfl, rfl, rfl, rfl, rfl⟩, nofun⟩
  · exact ⟨rfl, rfl, rfl, e, false, _, _, rfl, by simpa using hCap, nofun,
      fun _ => ⟨rfl, rfl, rfl, rfl, rfl⟩, fun hValid => by simp [hValid] at he⟩
  · obtain ⟨_, rfl⟩ | ⟨_, p, q, rfl⟩ | ⟨_, rfl⟩ := hFrame
    · exact ⟨rfl, rfl, rfl, .none, false, _, _, rfl, by simpa using hCap, nofun,
        fun _ => ⟨rfl, rfl, rfl, rfl, rfl⟩, nofun⟩
    · exact ⟨rfl, rfl, rfl, .frameValid, false, p, q, rfl, by simpa using hCap, nofun,
        fun hNot => absurd rfl hNot, fun _ => ⟨rfl, rfl, rfl⟩⟩
    · exact ⟨rfl, rfl, rfl, .frameInvalid, false, _, _, rfl, by simpa using hCap, nofun,
        fun _ => ⟨rfl, rfl, rfl, rfl, rfl⟩, nofun⟩

/-! ### READ, ENCODE, RESET, power-on -/

/-- Settles O26. -/
theorem readReturnsTheReading : Obligations.ReadReturnsTheReading :=
  fun _ => rfl

/-- Settles O28: each frame is the one its selector's bytes and checksum make. -/
theorem encodeReturnsTheFixedFrames : Obligations.EncodeReturnsTheFixedFrames :=
  fun _ => ⟨rfl, rfl, rfl, rfl⟩

/-- Settles O30. -/
theorem resetReturnsEverything : Obligations.ResetReturnsEverything :=
  fun _ => rfl

/-- Settles O31. -/
theorem powerOnState : Obligations.PowerOnState :=
  ⟨fun _ => ⟨rfl, rfl, rfl, rfl, rfl, rfl, rfl, rfl, rfl⟩, Config.resetMaxChunk, rfl⟩

/-- Settles O32: each of the six answers the same and finds the block as its first run left it. -/
theorem twiceIsOnceForReadEncodeReset : Obligations.TwiceIsOnceForReadEncodeReset := by
  intro i hi s
  simp only [List.mem_cons, List.not_mem_nil, or_false] at hi
  obtain rfl | rfl | rfl | rfl | rfl | rfl := hi
  all_goals exact ⟨_, _, _, rfl, rfl, ⟨rfl, rfl, rfl, rfl, rfl⟩, rfl, List.append_assoc _ _ _⟩

end Sys2Proof.Machine
end

section
/-! SUPPORT. What every step keeps (10_state.md section 6, 60_exceptions.md section 3): the buffer invariant, the Reading
invariant, the refusal mark; and who writes the block. All are read off the three things a legal request can do. -/

namespace Sys2Proof.Machine

/-- A legal request is an INGEST, a RESET, or only answers, with a response that carries no event (R53, R65). -/
theorem exec_request_cases {w : Byte} {d : List Byte} {i : Instr} {s t : State} (hd : decodeRequest w d = some i)
    (h : exec i s = .next t) :
    i = .ingest d ∨ (i = .reset ∧ t = respond .reset (resetBlock s)) ∨
      ∃ r : Response, r ≠ .reset ∧ r.event = none ∧ t = respond r s := by
  obtain hIngest | rfl | rfl | rfl | rfl | rfl | rfl := decodeRequest_cases hd
  · exact .inl hIngest
  pick_goal 6
  · cases h; exact .inr (.inl ⟨rfl, rfl⟩)
  all_goals cases h; exact .inr (.inr ⟨_, by nofun, rfl, rfl⟩)

/-- What an INGEST does to the requests, MAX_CHUNK and the mark, whether it is refused or not. -/
theorem exec_ingest_answers {c : List Byte} {s t : State} (h : exec (.ingest c) s = .next t) :
    (∃ reason, t = refuse reason s) ∨
      (t.requests = s.requests ∧ t.maxChunk = s.maxChunk ∧ t.refusalMark = s.refusalMark ∧
        ∃ r, t.responses = s.responses ++ [r]) := by
  by_cases hMax : c.length ≤ s.maxChunk
  · obtain ⟨hRequests, hMaxChunk, hMark, _, _, _, _, hResponses, _⟩ := ingestResponseAndFrame c s t hMax h
    exact .inr ⟨hRequests, hMaxChunk, hMark, _, hResponses⟩
  · rw [exec_ingest_of_tooLong (Nat.lt_of_not_le hMax)] at h
    cases h
    exact .inl ⟨_, rfl⟩

/-- A legal request is refused, or gives one response and leaves the requests, MAX_CHUNK and the mark (R65, R207). -/
theorem exec_request_answers {w : Byte} {d : List Byte} {i : Instr} {s t : State} (hd : decodeRequest w d = some i)
    (h : exec i s = .next t) :
    (∃ reason, t = refuse reason s) ∨
      (t.requests = s.requests ∧ t.maxChunk = s.maxChunk ∧ t.refusalMark = s.refusalMark ∧
        ∃ r, t.responses = s.responses ++ [r]) := by
  obtain rfl | ⟨_, rfl⟩ | ⟨r, _, _, rfl⟩ := exec_request_cases hd h
  · exact exec_ingest_answers h
  · exact .inr ⟨rfl, rfl, rfl, _, rfl⟩
  · exact .inr ⟨rfl, rfl, rfl, _, rfl⟩

/-! ### The buffer -/

/-- Settles O33. -/
theorem bufferInvAtPowerOn : Obligations.BufferInvAtPowerOn :=
  ⟨fun _ => ⟨Nat.zero_le _, nofun⟩, Nat.zero_le _, nofun⟩

/-- Bytes appended behind the front two do not change whether the data marker is in front. -/
theorem markerInFront_append {b : List Byte} (c : List Byte) (h : 2 ≤ b.length) :
    markerInFront (b ++ c) ↔ markerInFront b := by
  rw [markerInFront, markerInFront, List.getD_append _ _ _ _ (by omega), List.getD_append _ _ _ _ (by omega)]

/-- An idle block of at most 512 bytes meets R33 (a) and (b). -/
theorem bufferInv_of_idle {s : State} (hCap : s.buf.length ≤ 512) (hst : s.st = .idle) : BufferInv s :=
  ⟨hCap, fun h => by simp [hst] at h⟩

/-- Every INGEST keeps R33 (a) and (b): on each path it ends in Idle, or awaits a frame with 2 to 31 bytes held. -/
theorem bufferInv_of_exec_ingest {c : List Byte} {s t : State} (hInv : BufferInv s)
    (h : exec (.ingest c) s = .next t) : BufferInv t := by
  obtain ⟨hCap, hReading⟩ := hInv
  obtain ⟨_, rfl⟩ | ⟨_, _, rfl⟩ | ⟨⟨_, hFits⟩, hShort, rfl⟩ | ⟨_, _, hIdle, _, e, _, rfl⟩ |
    ⟨⟨_, hFits⟩, hTwo, hst, hFrame⟩ := exec_ingest_cases h
  · exact ⟨hCap, hReading⟩ -- refused
  · exact bufferInv_of_idle (Nat.zero_le _) rfl -- overflow
  · refine ⟨by simpa using hFits, fun hst => ?_⟩ -- too few bytes: not in ReadingFrame
    have := (hReading hst).1
    rw [List.length_append] at hShort
    omega
  · exact bufferInv_of_idle (Nat.zero_le _) hIdle -- a clearing marker
  have hFits' : (s.buf ++ c).length ≤ 512 := by simpa using hFits
  obtain ⟨hShort, rfl⟩ | ⟨_, p, q, rfl⟩ | ⟨_, rfl⟩ := hFrame
  · refine ⟨hFits', fun _ => ⟨hTwo, Nat.le_of_lt_succ hShort, ?_⟩⟩ -- awaiting the frame
    obtain hst | ⟨_, hFront⟩ := hst
    · exact (markerInFront_append c (hReading hst).1).2 (hReading hst).2.2
    · exact hFront
  · exact bufferInv_of_idle ((List.drop_sublist 32 _).length_le.trans hFits') rfl -- valid frame
  · exact bufferInv_of_idle ((List.drop_sublist 32 _).length_le.trans hFits') rfl -- invalid frame

/-- Settles O34: of the requests only INGEST and RESET touch the buffer and st, and RESET ends empty and Idle. -/
theorem everyStepKeepsBufferInv : Obligations.EveryStepKeepsBufferInv := by
  intro s t hInv h
  obtain ⟨_, rfl⟩ | ⟨_, _, _, _, rfl⟩ | ⟨r, rest, i, _, hDecode, hExec⟩ := step_cases h
  · exact hInv
  · exact hInv
  · obtain rfl | ⟨_, rfl⟩ | ⟨_, _, _, rfl⟩ := exec_request_cases hDecode hExec
    · exact bufferInv_of_exec_ingest (s := { s with requests := rest }) hInv hExec
    · exact bufferInv_of_idle (Nat.zero_le _) rfl
    · exact hInv

/-! ### The Reading -/

/-- Settles O35. -/
theorem readingInvAtPowerOn : Obligations.ReadingInvAtPowerOn :=
  ⟨fun _ => rfl, rfl⟩

/-- Of the INGEST responses only FRAME_VALID changes the Reading (R114). -/
theorem readingAfter_ingest_of_ne {e : Event} (he : e ≠ .frameValid) (old : Bool × Word16 × Word16) (ovf : Bool)
    (p q : Word16) : readingAfter old (.ingest e ovf p q) = old := by
  cases e with
  | frameValid => exact absurd rfl he
  | none | ignored | ackOk | ackError | frameInvalid => rfl

/-- A response with no event, RESET's apart, leaves the Reading (R31). -/
theorem readingAfter_of_event_eq_none {r : Response} (hr : r ≠ .reset) (he : r.event = none)
    (old : Bool × Word16 × Word16) : readingAfter old r = old := by
  cases r with
  | ingest => cases he
  | read | encode => rfl
  | reset => exact absurd rfl hr

/-- The Reading invariant after one more response that accounts for the Reading held. -/
theorem readingInv_of_response {s t : State} {r : Response} (hInv : ReadingInv s)
    (hResponses : t.responses = s.responses ++ [r])
    (hReading : (t.rdValid, t.rdPm25, t.rdPm10) = readingAfter (s.rdValid, s.rdPm25, s.rdPm10) r) : ReadingInv t := by
  rw [ReadingInv, hResponses, readingOf_append_singleton, ← hInv, hReading]

/-- Every INGEST keeps R33 (c) and (d): the Reading is written on FRAME_VALID only, with the response's fields. -/
theorem readingInv_of_exec_ingest {c : List Byte} {s t : State} (hInv : ReadingInv s)
    (h : exec (.ingest c) s = .next t) : ReadingInv t := by
  by_cases hMax : c.length ≤ s.maxChunk
  · obtain ⟨_, _, _, e, ovf, p, q, hResponses, _, _, hOther, hValid⟩ := ingestResponseAndFrame c s t hMax h
    refine readingInv_of_response hInv hResponses ?_
    by_cases he : e = .frameValid
    · obtain ⟨h1, h2, h3⟩ := hValid he
      rw [he, h1, h2, h3]
      rfl
    · obtain ⟨_, _, h1, h2, h3⟩ := hOther he
      rw [readingAfter_ingest_of_ne he, h1, h2, h3]
  · rw [exec_ingest_of_tooLong (Nat.lt_of_not_le hMax)] at h
    cases h
    exact hInv

/-- Settles O36: INGEST by its response, RESET and the responses without event by what they do to the Reading. -/
theorem everyStepKeepsReadingInv : Obligations.EveryStepKeepsReadingInv := by
  intro s t hInv h
  obtain ⟨_, rfl⟩ | ⟨_, _, _, _, rfl⟩ | ⟨r, rest, i, _, hDecode, hExec⟩ := step_cases h
  · exact hInv
  · exact hInv
  · obtain rfl | ⟨_, rfl⟩ | ⟨a, hNotReset, hNoEvent, rfl⟩ := exec_request_cases hDecode hExec
    · exact readingInv_of_exec_ingest (s := { s with requests := rest }) hInv hExec
    · exact readingInv_of_response hInv rfl rfl
    · exact readingInv_of_response hInv rfl (readingAfter_of_event_eq_none hNotReset hNoEvent _).symm

/-! ### Who writes the block, and the refusal mark -/

/-- Settles O37: the other paths end with fewer than two bytes, or in ReadingFrame. -/
theorem idleWithBytesOnlyAfterExtraction : Obligations.IdleWithBytesOnlyAfterExtraction := by
  intro c s t hMax h hIdle hTwo
  obtain ⟨hLong, _⟩ | ⟨_, _, rfl⟩ | ⟨_, hShort, rfl⟩ | ⟨_, _, _, _, _, _, rfl⟩ | ⟨_, _, _, hFrame⟩ :=
    exec_ingest_cases h
  · exact absurd hLong (Nat.not_lt.2 hMax)
  · exact absurd hTwo (Nat.not_succ_le_zero 1)
  · exact absurd hTwo (Nat.not_le.2 hShort)
  · exact absurd hTwo (Nat.not_succ_le_zero 1)
  · obtain ⟨_, rfl⟩ | ⟨_, _, _, rfl⟩ | ⟨_, rfl⟩ := hFrame
    · cases hIdle
    · exact ⟨_, rfl, .inl rfl⟩
    · exact ⟨_, rfl, .inr rfl⟩

/-- Settles O39: a legal request that is neither leaves the block's state, and so do a refusal and an idle step. -/
theorem onlyIngestAndResetWriteTheBlock : Obligations.OnlyIngestAndResetWriteTheBlock := by
  intro s t h hChanged
  obtain ⟨_, rfl⟩ | ⟨_, _, _, _, rfl⟩ | ⟨r, rest, i, hRequests, hDecode, hExec⟩ := step_cases h
  · exact absurd ⟨rfl, rfl, rfl, rfl, rfl⟩ hChanged
  · exact absurd ⟨rfl, rfl, rfl, rfl, rfl⟩ hChanged
  · refine ⟨r, rest, hRequests, ?_⟩
    by_cases hIngest : i = .ingest r.data
    · exact .inl (hIngest ▸ hDecode)
    by_cases hReset : i = .reset
    · exact .inr (hReset ▸ hDecode)
    exact absurd (sameBlock_of_exec_request hDecode hIngest hReset hExec) hChanged

/-- Only the ingest agent may issue an INGEST or a RESET (R211 (a)). -/
theorem not_mayIssue_of_writes {a : Agent} (ha : a ≠ .ingestAgent) :
    (∀ c, mayIssue a (.ingest c) = false) ∧ mayIssue a .reset = false := by
  cases a with
  | ingestAgent => exact absurd rfl ha
  | reader | commandAgent => exact ⟨fun _ => rfl, rfl⟩

/-- Settles O40: what another agent may issue is neither of the two operations that write. -/
theorem onlyTheIngestAgentWrites : Obligations.OnlyTheIngestAgentWrites := by
  intro s t r rest hRequests hDutiful hIssuer h
  obtain ⟨hNoIngest, hNoReset⟩ := not_mayIssue_of_writes hIssuer
  cases hDecode : decodeRequest r.word r.data with
  | none => simp [dutiful, hDecode] at hDutiful
  | some i =>
    have hMay : mayIssue r.issuer i = true := by simpa [dutiful, hDecode] using hDutiful
    rw [step_some hRequests hDecode] at h
    refine sameBlock_of_exec_request (s := { s with requests := rest }) hDecode ?_ ?_ h
    · rintro rfl; simp [hNoIngest] at hMay
    · rintro rfl; simp [hNoReset] at hMay

/-- A mark that is set stays what it is, whatever is refused later (entry 4). -/
theorem refuse_keeps_mark {s : State} {m : RefuseReason} (h : s.refusalMark = some m) (reason : RefuseReason) :
    (refuse reason s).refusalMark = some m := by
  rw [refuse_refusalMark, h, Option.some_or]

/-- Settles O43: the mark is written by refusals only. The second part is the first read backwards. -/
theorem refusalMarkIsKept : Obligations.RefusalMarkIsKept := by
  intro s t h
  have hKept : ∀ m, s.refusalMark = some m → t.refusalMark = some m := by
    intro m hm
    obtain ⟨_, rfl⟩ | ⟨r, rest, _, _, rfl⟩ | ⟨r, rest, i, _, hDecode, hExec⟩ := step_cases h
    · exact hm
    · exact refuse_keeps_mark (s := { s with requests := rest }) hm _
    · obtain ⟨reason, rfl⟩ | ⟨_, _, hMark, _⟩ := exec_request_answers hDecode hExec
      · exact refuse_keeps_mark (s := { s with requests := rest }) hm reason
      · rw [hMark, ← hm]
  refine ⟨hKept, fun hRun => ?_⟩
  cases hm : s.refusalMark with
  | none => exact hm
  | some m => exact absurd ((hKept m hm).symm.trans hRun) nofun

/-- A refusal sets the mark. -/
theorem refuse_mark_ne_none (reason : RefuseReason) (s : State) : (refuse reason s).refusalMark ≠ none := by
  cases hm : s.refusalMark <;> simp [hm]

/-- Settles O44: a word with no operation is refused, and a legal request answers or is refused. -/
theorem oneResponseOrARefusal : Obligations.OneResponseOrARefusal := by
  intro s t r rest hRequests h
  cases hDecode : decodeRequest r.word r.data with
  | none =>
    rw [step_illegal hRequests hDecode] at h
    cases h
    exact ⟨rfl, rfl, .inr ⟨rfl, ⟨rfl, rfl, rfl, rfl, rfl⟩, refuse_mark_ne_none _ _⟩⟩
  | some i =>
    rw [step_some hRequests hDecode] at h
    obtain ⟨reason, rfl⟩ | ⟨hRest, hMax, hMark, resp, hResponses⟩ := exec_request_answers hDecode h
    · exact ⟨rfl, rfl, .inr ⟨rfl, ⟨rfl, rfl, rfl, rfl, rfl⟩, refuse_mark_ne_none _ _⟩⟩
    · exact ⟨hRest, hMax, .inl ⟨resp, hResponses, hMark⟩⟩

end Sys2Proof.Machine
end

section
/-! SUPPORT. INGEST looks at no response, so that a READ may stand before it or after it (20_memory.md section 6); bytes
without the marker (40_ingest.md section 10); and the host that drains (70_reset_and_hazards.md section 3). -/

namespace Sys2Proof.Machine

/-! ### READ beside INGEST -/

/-- A marker other than the data marker clears the buffer and reports an event that only its value decides
(R105 to R107). -/
theorem exec_decodeMarker_of_ne_data {m : Word16} (hm : m ≠ 0x424D#16) :
    ∃ e, ∀ u, exec (decodeMarker m) u = .next (clearAndEmit e u) := by
  obtain ⟨hData, _⟩ | ⟨_, h⟩ | ⟨_, h⟩ | ⟨_, h⟩ := decodeMarker_cases m
  · exact absurd hData hm
  all_goals rw [h]; exact ⟨_, fun _ => rfl⟩

/-- Judging a frame looks at no response given before. -/
theorem judgeFrame_withResponses (f : List Byte) (s : State) :
    ∃ (u : State) (r : Response), ∀ rs, judgeFrame f { s with responses := rs } = { u with responses := rs ++ [r] } := by
  cases h : checksumPasses f with
  | true =>
    exact ⟨setReading true (framePm25 f) (framePm10 f) s, _, fun _ => by rw [judgeFrame, if_pos h]; rfl⟩
  | false => exact ⟨s, _, fun _ => by rw [judgeFrame, if_neg (by simp [h])]; rfl⟩

/-- An INGEST that is not refused gives one response and a state that do not depend on the responses given before
(entry 3). -/
theorem exec_ingest_withResponses {c : List Byte} {s : State} (hMax : c.length ≤ s.maxChunk) :
    ∃ (u : State) (r : Response), ∀ rs,
      exec (.ingest c) { s with responses := rs } = .next { u with responses := rs ++ [r] } := by
  by_cases hCap : 512 < s.buf.length + c.length
  · exact ⟨discardAll s, _, fun rs => exec_ingest_of_overflow (s := { s with responses := rs }) hMax hCap⟩
  have hf : fits c s := ⟨hMax, Nat.le_of_not_lt hCap⟩
  by_cases hTwo : (s.buf ++ c).length < 2
  · exact ⟨append c s, _, fun rs => exec_ingest_of_length_lt_two (s := { s with responses := rs }) hf hTwo⟩
  have hTwo := Nat.le_of_not_lt hTwo
  by_cases hst : s.st = .readingFrame ∨ s.st = .idle ∧ markerInFront (s.buf ++ c)
  · by_cases hShort : (s.buf ++ c).length < 32
    · exact ⟨setSt .readingFrame (append c s), _,
        fun rs => exec_ingest_of_awaited (s := { s with responses := rs }) hf hst hTwo hShort⟩
    · obtain ⟨u, r, hJudge⟩ := judgeFrame_withResponses ((s.buf ++ c).take 32) (setSt .idle (compact 32 (append c s)))
      refine ⟨u, r, fun rs => ?_⟩
      rw [← hJudge, exec_ingest_of_wholeFrame (s := { s with responses := rs }) hf hst (Nat.le_of_not_lt hShort)]
      rfl
  · have hIdle : s.st = .idle := by cases h : s.st <;> simp_all
    have hMarker : frontMarker (s.buf ++ c) ≠ 0x424D#16 :=
      fun h => hst (.inr ⟨hIdle, (frontMarker_eq_data_iff _).1 h⟩)
    obtain ⟨e, hExec⟩ := exec_decodeMarker_of_ne_data hMarker
    exact ⟨clear s, _, fun rs =>
      (exec_ingest_of_idle (s := { s with responses := rs }) hf hIdle hTwo).trans (hExec _)⟩

/-- Operations in order: the first, then the others on what it leaves. -/
theorem performAll_cons {i : Instr} {is : List Instr} {s t : State} (h : exec i s = .next t) :
    performAll (i :: is) s = performAll is t := by
  rw [performAll, h]

/-- Settles O42: before the INGEST the READ only adds a response, which the INGEST does not look at. -/
theorem readInEitherOrder : Obligations.ReadInEitherOrder := by
  intro c s hMax
  obtain ⟨u, r, hIngest⟩ := exec_ingest_withResponses hMax
  have hAlone : exec (.ingest c) s = .next { u with responses := s.responses ++ [r] } := hIngest s.responses
  refine ⟨_, r, hAlone, rfl, ?_, ?_, fun hEvent => ?_⟩
  · rw [performAll_cons (readReturnsTheReading s), performAll_cons (hIngest _), List.append_assoc]
    rfl
  · rw [performAll_cons hAlone, performAll_cons (readReturnsTheReading _), performAll]
    simp
  · obtain ⟨_, _, _, e, ovf, p, q, hResponses, _, hOvf, _, hValid⟩ := ingestResponseAndFrame c s _ hMax hAlone
    obtain rfl : r = .ingest e ovf p q := by simpa using hResponses
    obtain rfl : e = .frameValid := by simpa [Response.event] using hEvent
    obtain ⟨hRdValid, hPm25, hPm10⟩ := hValid rfl
    cases ovf with
    | true => exact absurd (hOvf rfl) nofun
    | false => exact ⟨by rw [hPm25, hPm10], hRdValid⟩

/-! ### Bytes without the marker in front -/

/-- Settles O48: every path is open but those that commit to a frame. -/
theorem noiseIsDiscarded : Obligations.NoiseIsDiscarded := by
  intro c s t hMax hIdle hNoise h
  obtain ⟨hLong, _⟩ | ⟨_, hCap, rfl⟩ | ⟨_, hShort, rfl⟩ | ⟨_, _, _, _, e, he, rfl⟩ | ⟨_, _, hst, _⟩ :=
    exec_ingest_cases h
  · exact absurd hLong (Nat.not_lt.2 hMax)
  · exact ⟨rfl, Nat.zero_le _, rfl, rfl, rfl, .none, true, rfl, nofun, fun _ _ => by omega⟩
  · exact ⟨hIdle, Nat.le_of_lt_succ hShort, rfl, rfl, rfl, .none, false, rfl, nofun, nofun⟩
  · exact ⟨hIdle, Nat.zero_le _, rfl, rfl, rfl, e, false, rfl, by rintro rfl; simp at he, nofun⟩
  · simp [hIdle, hNoise] at hst

/-- Settles O52: the marker stands in the appended buffer, split by how much of it was held before. -/
theorem frameStartsOnlyAtTheFront : Obligations.FrameStartsOnlyAtTheFront := by
  intro c s t hIdle h hReading
  have hFront : markerInFront (s.buf ++ c) := by
    by_contra hNoise
    obtain ⟨_, rfl⟩ | ⟨hMax, _⟩ | ⟨⟨hMax, _⟩, _⟩ | ⟨⟨hMax, _⟩, _⟩ | ⟨⟨hMax, _⟩, _⟩ := exec_ingest_cases h
    · exact absurd (hIdle.symm.trans hReading) nofun
    all_goals
      exact absurd ((noiseIsDiscarded c s t hMax hIdle hNoise h).1.symm.trans hReading) nofun
  match hBuf : s.buf with
  | [] => exact .inl ⟨rfl, by simpa [hBuf] using hFront⟩
  | [x] =>
    obtain ⟨h0, h1⟩ : x = 0x42#8 ∧ c.getD 0 0 = 0x4D#8 := by simpa [hBuf, markerInFront] using hFront
    exact .inr (.inl ⟨by rw [h0], h1⟩)
  | x :: y :: b =>
    have hTwo : 2 ≤ s.buf.length := by simp [hBuf]
    exact .inr (.inr (hBuf ▸ ⟨hTwo, (markerInFront_append c hTwo).1 hFront⟩))

/-! ### The host that drains -/

/-- An INGEST that fits ends with no event and at most 31 bytes, or with an event for which at least two bytes left the
buffer. -/
theorem exec_ingest_quiet_or_event {c : List Byte} {s t : State} (hf : fits c s) (h : exec (.ingest c) s = .next t) :
    (t.responses = s.responses ++ [.ingest .none false 0x0000#16 0x0000#16] ∧ t.buf.length ≤ 31) ∨
      ∃ e p q, e ≠ .none ∧ t.responses = s.responses ++ [.ingest e false p q] ∧
        t.buf.length + 2 ≤ (s.buf ++ c).length := by
  obtain ⟨hMax, hCap⟩ := hf
  obtain ⟨hLong, _⟩ | ⟨_, hOver, _⟩ | ⟨_, hShort, rfl⟩ | ⟨_, hTwo, _, _, e, he, rfl⟩ | ⟨_, _, _, hFrame⟩ :=
    exec_ingest_cases h
  · exact absurd hLong (Nat.not_lt.2 hMax)
  · exact absurd hOver (Nat.not_lt.2 hCap)
  · exact .inl ⟨rfl, by rw [emit_buf, append_buf]; omega⟩
  · exact .inr ⟨e, _, _, by rintro rfl; simp at he, rfl, by simpa [clearAndEmit] using hTwo⟩
  · obtain ⟨hShort, rfl⟩ | ⟨hWhole, p, q, rfl⟩ | ⟨hWhole, rfl⟩ := hFrame
    · exact .inl ⟨rfl, Nat.le_of_lt_succ hShort⟩
    · refine .inr ⟨.frameValid, p, q, nofun, rfl, ?_⟩
      simp only [emitValid_buf, setReading_buf, setSt_buf, compact_buf, append_buf, List.length_drop]
      omega
    · refine .inr ⟨.frameInvalid, _, _, nofun, rfl, ?_⟩
      simp only [emit_buf, setSt_buf, compact_buf, append_buf, List.length_drop]
      omega

/-- A drained block has room for a modest chunk. -/
theorem fits_of_modestChunk {c : List Byte} {s : State} (hBuf : s.buf.length ≤ 31) (hc : modestChunk c)
    (hMax : c.length ≤ s.maxChunk) : fits c s :=
  ⟨hMax, by omega⟩

/-- An INGEST that fits reports no overflow. -/
theorem exec_ingest_response_of_fits {c : List Byte} {s t : State} (hf : fits c s)
    (h : exec (.ingest c) s = .next t) : ∃ e p q, t.responses = s.responses ++ [.ingest e false p q] := by
  obtain ⟨hQuiet, _⟩ | ⟨e, p, q, _, hEvent, _⟩ := exec_ingest_quiet_or_event hf h
  · exact ⟨_, _, _, hQuiet⟩
  · exact ⟨e, p, q, hEvent⟩

/-- Settles O49: with no event at most 31 bytes are left, which leaves room for 481. -/
theorem drainedBlockTakesAModestChunk : Obligations.DrainedBlockTakesAModestChunk := by
  intro s t ⟨hCap, _⟩ h hResponses
  obtain ⟨_, hBuf⟩ | ⟨e, p, q, he, hEvent, _⟩ := exec_ingest_quiet_or_event (fits_nil hCap) h
  · refine ⟨hBuf, fun c hc hMax => ?_⟩
    obtain ⟨u, hu⟩ := exec_next (.ingest c) t
    obtain ⟨e, p, q, hResponse⟩ := exec_ingest_response_of_fits (fits_of_modestChunk hBuf hc hMax) hu
    exact ⟨u, e, p, q, hu, hResponse⟩
  · have : e = .none := by simp_all
    exact absurd this he

/-- Settles O50. -/
theorem eventfulDrainRemovesBytes : Obligations.EventfulDrainRemovesBytes := by
  intro s ⟨hCap, _⟩
  obtain ⟨t, h⟩ := exec_next (.ingest []) s
  obtain ⟨hQuiet, _⟩ | ⟨e, p, q, _, hEvent, hLen⟩ := exec_ingest_quiet_or_event (fits_nil hCap) h
  · exact ⟨t, _, _, _, h, hQuiet, fun hNot => absurd rfl hNot⟩
  · exact ⟨t, e, p, q, h, hEvent, fun _ => by simpa using hLen⟩

/-- From s the block came to t by INGESTs of which none overflowed. -/
def NoOverflow (s t : State) : Prop :=
  t.maxChunk = s.maxChunk ∧ ∃ new, t.responses = s.responses ++ new ∧ ∀ r ∈ new, ∃ e p q, r = .ingest e false p q

theorem NoOverflow.refl (s : State) : NoOverflow s s :=
  ⟨rfl, [], by simp, nofun⟩

theorem NoOverflow.trans {s t u : State} (h : NoOverflow s t) (h' : NoOverflow t u) : NoOverflow s u := by
  obtain ⟨hMax, new, hNew, hIngest⟩ := h
  obtain ⟨hMax', new', hNew', hIngest'⟩ := h'
  refine ⟨hMax'.trans hMax, new ++ new', by rw [hNew', hNew, List.append_assoc], fun r hr => ?_⟩
  obtain hr | hr := List.mem_append.1 hr
  · exact hIngest r hr
  · exact hIngest' r hr

/-- One INGEST that fits, as a part of a run with no overflow. -/
theorem noOverflow_of_exec_ingest {c : List Byte} {s t : State} (hf : fits c s) (h : exec (.ingest c) s = .next t) :
    NoOverflow s t := by
  obtain ⟨_, hMax, _⟩ := ingestResponseAndFrame c s t hf.1 h
  obtain ⟨e, p, q, hResponse⟩ := exec_ingest_response_of_fits hf h
  exact ⟨hMax, _, hResponse, by simp⟩

/-- Whether the last operation was quiet is read off its response. -/
theorem lastIsQuiet_of_responses {t : State} {rs : List Response} {e : Event} {ovf : Bool} {p q : Word16}
    (h : t.responses = rs ++ [.ingest e ovf p q]) : lastIsQuiet t = decide (e = .none) := by
  simp only [lastIsQuiet, h, Response.event, List.getLast?_concat, Option.some_beq_some]
  rfl

/-- What the host of R239 comes to: no overflow on the way, and at most 31 bytes held. -/
def DrainedFrom (s t : State) : Prop := NoOverflow s t ∧ BufferInv t ∧ t.buf.length ≤ 31

/-- An INGEST that fits is quiet and leaves the block drained, or has an event, and the host goes on to drain fewer
bytes. -/
theorem exec_ingest_drained_or_event {c : List Byte} {s t : State} (hInv : BufferInv s) (hf : fits c s)
    (h : exec (.ingest c) s = .next t) :
    (lastIsQuiet t = true ∧ DrainedFrom s t) ∨
      (lastIsQuiet t = false ∧ NoOverflow s t ∧ BufferInv t ∧ t.buf.length + 2 ≤ (s.buf ++ c).length) := by
  have hInv' := bufferInv_of_exec_ingest hInv h
  have hNoOverflow := noOverflow_of_exec_ingest hf h
  obtain ⟨hQuiet, hLen⟩ | ⟨e, p, q, he, hEvent, hLen⟩ := exec_ingest_quiet_or_event hf h
  · exact .inl ⟨lastIsQuiet_of_responses hQuiet, hNoOverflow, hInv', hLen⟩
  · exact .inr ⟨by rw [lastIsQuiet_of_responses hEvent, decide_eq_false he], hNoOverflow, hInv', hLen⟩

/-- Draining ends before the fuel does, since each DRAIN with an event takes bytes away. -/
theorem drainUntilQuiet_drains (fuel : Nat) {s : State} (hInv : BufferInv s) (hFuel : s.buf.length < fuel) :
    ∃ t, drainUntilQuiet fuel s = .next t ∧ DrainedFrom s t := by
  induction fuel generalizing s with
  | zero => exact absurd hFuel (Nat.not_lt_zero _)
  | succ fuel ih =>
    obtain ⟨t, h⟩ := exec_next Instr.drain s
    rw [drainUntilQuiet, h]
    obtain ⟨hQuiet, hDrained⟩ | ⟨hEvent, hNoOverflow, hInv', hLen⟩ :=
      exec_ingest_drained_or_event hInv (fits_nil hInv.1) h
    · exact ⟨t, if_pos hQuiet, hDrained⟩
    · rw [List.append_nil] at hLen
      obtain ⟨u, hu, hNoOverflow', hInvLen⟩ := ih hInv' (by omega)
      exact ⟨u, by simpa [hEvent] using hu, hNoOverflow.trans hNoOverflow', hInvLen⟩

/-- One modest chunk, drained, brings a drained block to a drained block. -/
theorem deliverAndDrain_drains {c : List Byte} {s : State} (hInv : BufferInv s) (hf : fits c s) :
    ∃ t, deliverAndDrain c s = .next t ∧ DrainedFrom s t := by
  obtain ⟨t, h⟩ := exec_next (.ingest c) s
  rw [deliverAndDrain, h]
  obtain ⟨hQuiet, hDrained⟩ | ⟨hEvent, hNoOverflow, hInv', _⟩ := exec_ingest_drained_or_event hInv hf h
  · exact ⟨t, if_pos hQuiet, hDrained⟩
  · obtain ⟨u, hu, hNoOverflow', hInvLen⟩ := drainUntilQuiet_drains (t.len + 1) hInv' (Nat.lt_succ_self _)
    exact ⟨u, by simpa [hEvent] using hu, hNoOverflow.trans hNoOverflow', hInvLen⟩

/-- Any stream of modest chunks, each drained, brings a drained block to a drained block. -/
theorem deliverAllDrained_drains (chunks : List (List Byte)) {s : State} (hInv : BufferInv s)
    (hBuf : s.buf.length ≤ 31) (hChunks : ∀ c ∈ chunks, modestChunk c ∧ c.length ≤ s.maxChunk) :
    ∃ t, deliverAllDrained chunks s = .next t ∧ DrainedFrom s t := by
  induction chunks generalizing s with
  | nil => exact ⟨s, rfl, .refl s, hInv, hBuf⟩
  | cons c cs ih =>
    obtain ⟨hModest, hMax⟩ := hChunks c (by simp)
    obtain ⟨t, ht, hNoOverflow, hInv', hBuf'⟩ := deliverAndDrain_drains hInv (fits_of_modestChunk hBuf hModest hMax)
    obtain ⟨u, hu, hNoOverflow', hInvLen⟩ :=
      ih hInv' hBuf' (fun d hd => hNoOverflow.1 ▸ hChunks d (List.mem_cons_of_mem c hd))
    exact ⟨u, by rw [deliverAllDrained, ht]; exact hu, hNoOverflow.trans hNoOverflow', hInvLen⟩

/-- Settles O51. -/
theorem disciplinedHostNeverOverflows : Obligations.DisciplinedHostNeverOverflows := by
  intro chunks s hInv hBuf hChunks
  obtain ⟨t, ht, ⟨_, new, hNew, hIngest⟩, hDrained⟩ := deliverAllDrained_drains chunks hInv hBuf hChunks
  exact ⟨t, new, ht, hNew, hIngest, hDrained⟩

end Sys2Proof.Machine
end

section
/-! SUPPORT. One frame (40_ingest.md sections 7 and 10): the range of its sum, what one changed byte does to it, and its
delivery in chunks. -/

namespace Sys2Proof.Machine

/-! ### The range of the sum -/

/-- Settles O47: two marker bytes and 28 bytes of at most 0xFF each; within 16 bits the low part of the sum is the sum. -/
theorem checksumSumRange : Obligations.ChecksumSumRange := by
  intro f hLen ⟨h0, h1⟩
  have hBounds : 0x008F ≤ frameSum f ∧ frameSum f ≤ 0x1C73 := by
    match f with
    | [] | [_] => simp at hLen
    | x :: y :: body =>
      simp only [List.getD_cons_zero, List.getD_cons_succ] at h0 h1
      subst h0 h1
      have hBody : ((body.take 28).map BitVec.toNat).sum ≤ ((body.take 28).map BitVec.toNat).length • 255 :=
        List.sum_le_card_nsmul _ _ (by
          intro n hn
          obtain ⟨b, _, rfl⟩ := List.mem_map.1 hn
          exact Nat.le_of_lt_succ b.isLt)
      simp only [List.length_map, List.length_take, smul_eq_mul, List.length_cons] at hBody hLen
      simp only [frameSum, List.take_succ_cons, List.map_cons, List.sum_cons, BitVec.toNat_ofNat]
      omega
  refine ⟨hBounds.1, hBounds.2, fun hOutside => ?_⟩
  by_contra hPasses
  have hSum : BitVec.ofNat 16 (frameSum f) = frameChecksum f := by simpa [checksumPasses] using hPasses
  rw [← hSum, BitVec.toNat_ofNat] at hOutside
  omega

/-! ### One changed byte -/

/-- A list of numbers in which one is replaced: the sum with the old number put back is the old sum with the new one
added. -/
theorem sum_set_add_getElem {l : List Nat} {i : Nat} (h : i < l.length) (n : Nat) :
    (l.set i n).sum + l[i] = l.sum + n := by
  induction l generalizing i with
  | nil => simp at h
  | cons x l ih =>
    cases i with
    | zero => simp; omega
    | succ i => have := ih (Nat.lt_of_succ_lt_succ h); simp; omega

/-- A changed byte is read back, and the other bytes are as before. -/
theorem getD_set (f : List Byte) {i : Nat} (hi : i < f.length) (b : Byte) (j : Nat) :
    (f.set i b).getD j 0 = if i = j then b else f.getD j 0 := by
  rw [List.getD_eq_getElem?_getD, List.getElem?_set, if_pos hi, List.getD_eq_getElem?_getD]
  split_ifs <;> rfl

/-- A byte changed among the summed ones changes the sum by what the byte changed (R110). -/
theorem frameSum_set {f : List Byte} {i : Nat} (hLen : i < f.length) (hi : i < 30) (b : Byte) :
    frameSum (f.set i b) + (f.getD i 0).toNat = frameSum f + b.toNat := by
  have hSummed : i < ((f.take 30).map BitVec.toNat).length := by
    rw [List.length_map, List.length_take]
    omega
  have hSum := sum_set_add_getElem hSummed b.toNat
  rw [List.getElem_map, List.getElem_take] at hSum
  rw [frameSum, List.take_set, List.map_set, List.getD_eq_getElem _ _ hLen, hSum, frameSum]

/-- A byte changed behind the summed ones leaves the sum. -/
theorem frameSum_set_of_le {f : List Byte} {i : Nat} (hi : 30 ≤ i) (b : Byte) : frameSum (f.set i b) = frameSum f := by
  rw [frameSum, List.take_set_of_le hi, frameSum]

/-- One changed byte of 32 never keeps the checksum test (R110, R111, R122): it changes the sum by less than 0x100, or
the checksum field alone. -/
theorem not_sumMatches_set {f : List Byte} {i : Nat} {b : Byte} (hLen : f.length = 32) (hSum : sumMatches f)
    (hi : i < 32) (hb : b ≠ f.getD i 0) : ¬ sumMatches (f.set i b) := by
  intro hSum'
  have hNat : b.toNat ≠ (f.getD i 0).toNat := fun h => hb (BitVec.eq_of_toNat_eq h)
  have hByte := getD_set f (hLen ▸ hi) b
  change frameSum f % 65536 = _ at hSum
  change frameSum (f.set i b) % 65536 = _ at hSum'
  by_cases hSummed : i < 30
  · have hChange := frameSum_set (hLen ▸ hi) hSummed b
    have := b.isLt
    have := (f.getD i 0).isLt
    rw [hByte 30, hByte 31, if_neg (by omega), if_neg (by omega)] at hSum'
    omega
  · rw [frameSum_set_of_le (Nat.le_of_not_lt hSummed), hSum, hByte 30, hByte 31] at hSum'
    have := (f.getD 31 0).isLt
    obtain rfl | rfl : i = 30 ∨ i = 31 := by omega
    · rw [if_pos rfl, if_neg (by decide)] at hSum'
      omega
    · rw [if_neg (by decide), if_pos rfl] at hSum'
      omega

/-- One changed marker byte gives a marker of the last row: each acknowledgement marker differs from the data marker in
both bytes (R68). -/
theorem decodeMarker_set {f : List Byte} {i : Nat} {b : Byte} (hFront : markerInFront f) (hi : i < 2)
    (hLen : i < f.length) (hb : b ≠ f.getD i 0) :
    decodeMarker (frontMarker (f.set i b)) = .markerOther (frontMarker (f.set i b)) := by
  obtain ⟨h0, h1⟩ := hFront
  have hByte := getD_set f hLen b
  have hFar : ∀ x y, x ≠ 0x42#8 → y ≠ 0x4D#8 → frontMarker (f.set i b) ≠ be16 x y := by
    intro x y hx hy h
    rw [frontMarker_eq, hByte 0, hByte 1, h0, h1] at h
    obtain ⟨hx', hy'⟩ := be16_inj h
    obtain rfl | rfl : i = 0 ∨ i = 1 := by omega
    · exact hy hy'.symm
    · exact hx hx'.symm
  have hData : frontMarker (f.set i b) ≠ 0x424D#16 := by
    intro h
    obtain ⟨h0', h1'⟩ := (frontMarker_eq_data_iff _).1 h
    rw [hByte] at h0' h1'
    obtain rfl | rfl : i = 0 ∨ i = 1 := by omega
    · exact hb (h0'.trans h0.symm)
    · exact hb (h1'.trans h1.symm)
  rw [decodeMarker, classifyMarker_other hData (hFar 0xA5#8 0xA5#8 (by decide) (by decide))
    (hFar 0x96#8 0x96#8 (by decide) (by decide))]

/-- Settles O46: a changed marker byte leaves no marker the map's first rows know, any other byte fails the test. -/
theorem oneCorruptedByteIsNeverAccepted : Obligations.OneCorruptedByteIsNeverAccepted := by
  intro s f i b hBuf hIdle hMax ⟨hLen, hFront, hSum⟩ hi hb
  have hi' : i < f.length := by omega
  have hAppend : s.buf ++ f.set i b = f.set i b := by rw [hBuf, List.nil_append]
  have hLen' : (s.buf ++ f.set i b).length = 32 := by rw [hAppend, List.length_set, hLen]
  have hf : fits (f.set i b) s := by rw [fits, ← List.length_append, hLen', List.length_set]; omega
  have hEmpty : ∀ rs, { s with buf := [], st := .idle, responses := rs } = { s with responses := rs } := by
    intro rs; rw [← hBuf, ← hIdle]
  rw [← hEmpty]
  by_cases hMarker : i < 2
  · rw [if_pos hMarker, exec_ingest_of_idle hf hIdle (by omega), hAppend, decodeMarker_set hFront hMarker hi' hb,
      ← hIdle]
    rfl
  · have hByte := getD_set f hi' b
    have hFront' : markerInFront (f.set i b) := by
      rw [markerInFront, hByte, hByte, if_neg (by omega), if_neg (by omega)]
      exact hFront
    have hDrop : (f.set i b).drop 32 = [] := List.drop_eq_nil_of_le (by rw [List.length_set]; omega)
    rw [if_neg hMarker, invalidFrameKeepsTheReading _ s hf (.inr ⟨hIdle, by rwa [hAppend]⟩) (by omega)
      (by rw [hAppend]; exact not_sumMatches_set hLen hSum hi hb), hAppend, hDrop]

/-! ### Delivery in chunks -/

/-- The decoder state of a block that holds the first bytes of a frame: Idle until the marker is whole. -/
def partialSt (b : List Byte) : DecoderState := if b.length < 2 then .idle else .readingFrame

/-- A block that holds the first bytes of a frame is committed to it, or sees its marker once it is whole. -/
theorem committed_of_partialSt {c : List Byte} {s : State} (hst : s.st = partialSt s.buf)
    (hFront : markerInFront (s.buf ++ c)) :
    s.st = .readingFrame ∨ s.st = .idle ∧ markerInFront (s.buf ++ c) := by
  by_cases hHeld : s.buf.length < 2
  · exact .inr ⟨by rw [hst, partialSt, if_pos hHeld], hFront⟩
  · exact .inl (by rw [hst, partialSt, if_neg hHeld])

/-- The block with the next bytes c of an incomplete frame kept, and no event reported. -/
def keepPart (c : List Byte) (s : State) : State :=
  { s with
    buf := s.buf ++ c, st := partialSt (s.buf ++ c),
    responses := s.responses ++ [.ingest .none false 0x0000#16 0x0000#16] }

@[simp] theorem keepPart_buf (c : List Byte) (s : State) : (keepPart c s).buf = s.buf ++ c := rfl

/-- An INGEST of bytes that leave the frame f incomplete keeps them (R103, R104, R108). -/
theorem exec_ingest_of_partialFrame {f c rest : List Byte} {s : State} (hFront : markerInFront f)
    (hf : s.buf ++ c ++ rest = f) (hst : s.st = partialSt s.buf) (hMax : c.length ≤ s.maxChunk)
    (h32 : (s.buf ++ c).length < 32) : exec (.ingest c) s = .next (keepPart c s) := by
  have hLen := List.length_append (as := s.buf) (bs := c)
  have hFits : fits c s := ⟨hMax, by omega⟩
  by_cases hShort : (s.buf ++ c).length < 2
  · have hIdle : s.st = partialSt (s.buf ++ c) := by rw [hst, partialSt, if_pos (by omega), partialSt, if_pos hShort]
    rw [exec_ingest_of_length_lt_two hFits hShort, keepPart, ← hIdle]
    rfl
  · have hTwo := Nat.le_of_not_lt hShort
    have hFront' : markerInFront (s.buf ++ c) := (markerInFront_append rest hTwo).1 (hf ▸ hFront)
    rw [exec_ingest_of_awaited hFits (committed_of_partialSt hst hFront') hTwo h32, keepPart, partialSt, if_neg hShort]
    rfl

/-- Chunks of no bytes leave a block that is empty and Idle as it is, each with no event. -/
theorem performAll_ingest_of_flatten_eq_nil {chunks : List (List Byte)} {s : State} (hBuf : s.buf = [])
    (hChunks : chunks.flatten = []) :
    performAll (chunks.map .ingest) s = .next { s with
      responses := s.responses ++ List.replicate chunks.length (.ingest .none false 0x0000#16 0x0000#16) } := by
  induction chunks generalizing s with
  | nil => simp [performAll]
  | cons c cs ih =>
    obtain ⟨rfl, hRest⟩ : c = [] ∧ cs.flatten = [] := by simpa using hChunks
    have hDrain : exec (.ingest []) s = .next (emit .none s) := by
      rw [exec_ingest_of_length_lt_two (fits_nil (by simp [hBuf])) (by simp [hBuf]), append_nil]
    rw [List.map_cons, performAll_cons hDrain, ih (s := emit .none s) hBuf hRest]
    simp [emit, respond, List.replicate_succ]

/-- The block after the valid frame f came whole: before chunks of it with no event, FRAME_VALID, and after chunks of
nothing. -/
def afterFrame (f : List Byte) (before after : Nat) (s : State) : State :=
  { s with
    buf := [], st := .idle,
    rdValid := true, rdPm25 := f.getD 6 0 ++ f.getD 7 0, rdPm10 := f.getD 8 0 ++ f.getD 9 0,
    responses := s.responses ++ List.replicate before (.ingest .none false 0x0000#16 0x0000#16) ++
      [.ingest .frameValid false (f.getD 6 0 ++ f.getD 7 0) (f.getD 8 0 ++ f.getD 9 0)] ++
      List.replicate after (.ingest .none false 0x0000#16 0x0000#16) }

/-- The chunk that completes a valid frame is the one with FRAME_VALID, and leaves nothing held (R109, R114). -/
theorem exec_ingest_of_lastChunk {f c : List Byte} {s : State} (hValid : validFrame f) (hf : s.buf ++ c = f)
    (hst : s.st = partialSt s.buf) (hMax : c.length ≤ s.maxChunk) :
    exec (.ingest c) s = .next (afterFrame f 0 0 s) := by
  obtain ⟨hLen, hFront, hSum⟩ := hValid
  subst hf
  have hFits : fits c s := ⟨hMax, by rw [← List.length_append]; omega⟩
  rw [validFrameUpdatesTheReading c s hFits (committed_of_partialSt hst hFront) hLen.ge hSum,
    List.drop_eq_nil_of_le hLen.le]
  simp [afterFrame]

/-- A valid frame of which the first bytes are held, its other bytes delivered in chunks: the chunks before the one that
completes it give no event, and so do those after, which are empty. Induction over the chunks: the first one leaves the
frame incomplete, or completes it. -/
theorem performAll_ingest_of_frame {f : List Byte} (hValid : validFrame f) {chunks : List (List Byte)} {s : State}
    (hst : s.st = partialSt s.buf) (hHeld : s.buf.length < 32) (hf : s.buf ++ chunks.flatten = f)
    (hMax : ∀ c ∈ chunks, c.length ≤ s.maxChunk) :
    ∃ before after : Nat, before + 1 + after = chunks.length ∧
      s.buf.length + (chunks.take before).flatten.length < 32 ∧
      s.buf.length + (chunks.take (before + 1)).flatten.length = 32 ∧
      performAll (chunks.map .ingest) s = .next (afterFrame f before after s) := by
  induction chunks generalizing s with
  | nil =>
    have hLen := hValid.1
    rw [← hf, List.flatten_nil, List.append_nil] at hLen
    omega
  | cons c cs ih =>
    rw [List.flatten_cons, ← List.append_assoc] at hf
    have hMaxC := hMax c List.mem_cons_self
    have hSplit := List.length_append (as := s.buf) (bs := c)
    by_cases h32 : (s.buf ++ c).length < 32
    · have hExec := exec_ingest_of_partialFrame hValid.2.1 hf hst hMaxC h32
      obtain ⟨before, after, hCount, hBefore, hWhole, hRun⟩ :=
        ih (s := keepPart c s) rfl h32 hf fun d hd => hMax d (List.mem_cons_of_mem c hd)
      rw [keepPart_buf] at hBefore hWhole
      refine ⟨before + 1, after, by rw [List.length_cons]; omega, ?_, ?_, ?_⟩
      · rw [List.take_succ_cons, List.flatten_cons, List.length_append]
        omega
      · rw [List.take_succ_cons, List.flatten_cons, List.length_append]
        omega
      · rw [List.map_cons, performAll_cons hExec, hRun]
        simp [afterFrame, keepPart, List.replicate_succ]
    · have hLen := hValid.1
      have hRest : cs.flatten = [] := by
        rw [← hf, List.length_append] at hLen
        exact List.eq_nil_of_length_eq_zero (by omega)
      rw [hRest, List.append_nil] at hf
      refine ⟨0, cs.length, by rw [List.length_cons]; omega, by simpa using hHeld, ?_, ?_⟩
      · rw [hf] at hSplit
        simp
        omega
      · rw [List.map_cons, performAll_cons (exec_ingest_of_lastChunk hValid hf hst hMaxC),
          performAll_ingest_of_flatten_eq_nil rfl hRest]
        simp [afterFrame]

/-- Settles O45: at first nothing of the frame is held. -/
theorem splitInvarianceOfAValidFrame : Obligations.SplitInvarianceOfAValidFrame := by
  intro s f chunks hBuf hIdle hValid hf hMax
  obtain ⟨before, after, hCount, hBefore, hWhole, hRun⟩ :=
    performAll_ingest_of_frame (s := s) hValid (by rw [hBuf, hIdle]; rfl) (by rw [hBuf]; decide)
      (by rw [hBuf, hf, List.nil_append]) hMax
  rw [hBuf, List.length_nil, Nat.zero_add] at hBefore hWhole
  refine ⟨before, after, hCount, hBefore, hWhole, ?_⟩
  rw [hRun, afterFrame, ← hBuf, ← hIdle]

end Sys2Proof.Machine
end

section
/-! SUPPORT. The settle invariant (70_reset_and_hazards.md R234): what one task of a call does to the tasks left and to the
trace, and why the second command of a pair has its pause before it. -/

namespace Sys2Proof.Machine

/-! ### One task -/

/-- The host goes on by the next task of the call in progress. -/
theorem proceed_of_tasks {h : Session} {t : HostTask} {rest : List HostTask} (ht : h.tasks = t :: rest)
    (w : WriteOutcome) (extra : Nat) : proceed w extra h = performTask w extra rest h t := by
  rw [proceed, ht]

/-- With no call in progress the host begins the oldest one waiting. -/
theorem proceed_of_waiting {h : Session} {c : HostCall} {cs : List HostCall} (ht : h.tasks = [])
    (hw : h.waiting = c :: cs) (w : WriteOutcome) (extra : Nat) :
    proceed w extra h = .next (continueCall (planOf h.started c) { h with waiting := cs }) := by
  rw [proceed, ht, hw]

/-- With no call at all the host has nothing to do. -/
theorem proceed_of_noCall {h : Session} (hn : noCall h) (w : WriteOutcome) (extra : Nat) :
    proceed w extra h = .next h := by
  rw [proceed, hn.1, hn.2]

/-- What a task adds to the trace when no write of it faults. -/
def taskActs (settleDelay extra : Nat) : HostTask → List HostAct
  | .reset => []
  | .send sel => [.wrote (bytesOf sel)]
  | .settle => [.waited (settleDelay + extra)]
  | .setStarted _ => []

/-- A task ends the call by a faulted write, or leaves the tasks after it, with its acts noted. -/
theorem performTask_cases {w : WriteOutcome} {extra : Nat} {rest : List HostTask} {h h' : Session} {t : HostTask}
    (hp : performTask w extra rest h t = .next h') :
    h'.settleDelay = h.settleDelay ∧
      (h'.tasks = [] ∨ h'.tasks = rest ∧ h'.trace = h.trace ++ taskActs h.settleDelay extra t) := by
  cases t with
  | reset =>
    rw [performTask_reset] at hp
    cases hp
    simp [taskActs]
  | send sel =>
    rw [performTask_send] at hp
    cases hp
    cases w with
    | accepted => simp [afterWrite, written, writeAct, taskActs]
    | faulted => exact ⟨rfl, .inl rfl⟩
  | settle =>
    rw [performTask_settle] at hp
    cases hp
    simp [note, taskActs]
  | setStarted b =>
    rw [performTask_setStarted] at hp
    cases hp
    simp [taskActs]

/-! ### The invariant -/

/-- With no task left no pair is under way. -/
theorem PairInv.of_tasks {h : Session} {first : List Byte} {second : BitVec 2} {started : Bool}
    (hPause : h.tasks ≠ [.settle, .send second, .setStarted started])
    (hSecond : h.tasks ≠ [.send second, .setStarted started]) : PairInv h first second started :=
  ⟨fun ht => absurd ht hPause, fun ht => absurd ht hSecond⟩

/-- Acts that are no waits, added in the middle of a call, keep what R234 asks of its pair. -/
theorem PairInv.of_acts {h h' : Session} {first : List Byte} {second : BitVec 2} {started : Bool}
    {acts : List HostAct} (hInv : PairInv h first second started) (hTasks : h'.tasks = h.tasks)
    (hDelay : h'.settleDelay = h.settleDelay) (hTrace : h'.trace = h.trace ++ acts)
    (hActs : ∀ a ∈ acts, isWait a = false) : PairInv h' first second started where
  beforePause ht := by
    obtain ⟨pre, post, hPre, hPost⟩ := hInv.beforePause (hTasks ▸ ht)
    refine ⟨pre, post ++ acts, by simp [hTrace, hPre], fun a ha => ?_⟩
    exact (List.mem_append.1 ha).elim (hPost a) (hActs a)
  beforeSecond ht := by
    obtain ⟨pre, mid, d, post, hPre, hWait, hPost⟩ := hInv.beforeSecond (hTasks ▸ ht)
    refine ⟨pre, mid, d, post ++ acts, by simp [hTrace, hPre], hDelay ▸ hWait, fun a ha => ?_⟩
    rw [← List.append_assoc] at ha
    exact (List.mem_append.1 ha).elim (hPost a) (hActs a)

/-- A task keeps what R234 asks of a pair when only the pair's first command leads to its pause, and only the pause to
its second command. -/
theorem PairInv.of_performTask {w : WriteOutcome} {extra : Nat} {rest : List HostTask} {h h' : Session} {t : HostTask}
    {sel second : BitVec 2} {started : Bool} (ht : h.tasks = t :: rest) (hp : performTask w extra rest h t = .next h')
    (hFirst : rest = [.settle, .send second, .setStarted started] → t = .send sel)
    (hSettle : rest = [.send second, .setStarted started] → t = .settle)
    (hInv : PairInv h (bytesOf sel) second started) : PairInv h' (bytesOf sel) second started := by
  obtain ⟨hDelay, hNil | ⟨hRest, hTrace⟩⟩ := performTask_cases hp
  · exact .of_tasks (by simp [hNil]) (by simp [hNil])
  refine ⟨fun hTasks => ?_, fun hTasks => ?_⟩
  · rw [hFirst (hRest ▸ hTasks)] at hTrace
    exact ⟨h.trace, [], hTrace, nofun⟩
  · obtain rfl := hSettle (hRest ▸ hTasks)
    obtain ⟨pre, post, hPre, hPost⟩ := hInv.beforePause (by rw [ht, ← hRest, hTasks])
    refine ⟨pre, post, h.settleDelay + extra, [], by simp [hTrace, hPre, taskActs], by omega, ?_⟩
    simpa using hPost

/-- Where the tasks left stand in a plan: a pair's pause comes right after its first command, and its second command
right after the pause. -/
theorem plan_order {t : HostTask} {rest : List HostTask} (h : t :: rest <:+ startPlan ∨ t :: rest <:+ stopPlan) :
    (rest = [.settle, .send 0b10#2, .setStarted true] → t = .send 0b00#2) ∧
    (rest = [.send 0b10#2, .setStarted true] → t = .settle) ∧
    (rest = [.settle, .send 0b11#2, .setStarted false] → t = .send 0b01#2) ∧
    (rest = [.send 0b11#2, .setStarted false] → t = .settle) := by
  refine ⟨?_, ?_, ?_, ?_⟩
  all_goals
    rintro rfl
    simpa [startPlan, stopPlan, List.suffix_cons_iff] using h

/-- A call not begun yet, or ended, keeps the invariant: its tasks are a whole plan, or none. -/
theorem SettleInv.of_plan {h : Session} (ht : h.tasks = [] ∨ h.tasks = startPlan ∨ h.tasks = stopPlan) :
    SettleInv h := by
  obtain ht | ht | ht := ht
  · exact ⟨.inl (by simp [ht]), .of_tasks (by simp [ht]) (by simp [ht]), .of_tasks (by simp [ht]) (by simp [ht])⟩
  · exact ⟨.inl (by simp [ht]), .of_tasks (by rw [ht]; decide) (by rw [ht]; decide),
      .of_tasks (by rw [ht]; decide) (by rw [ht]; decide)⟩
  · exact ⟨.inr (by simp [ht]), .of_tasks (by rw [ht]; decide) (by rw [ht]; decide),
      .of_tasks (by rw [ht]; decide) (by rw [ht]; decide)⟩

/-- Acts that are no waits, added in the middle of a call, keep the invariant. -/
theorem SettleInv.of_acts {h h' : Session} {acts : List HostAct} (hInv : SettleInv h) (hTasks : h'.tasks = h.tasks)
    (hDelay : h'.settleDelay = h.settleDelay) (hTrace : h'.trace = h.trace ++ acts)
    (hActs : ∀ a ∈ acts, isWait a = false) : SettleInv h' :=
  ⟨hTasks ▸ hInv.plan, hInv.startPair.of_acts hTasks hDelay hTrace hActs,
    hInv.stopPair.of_acts hTasks hDelay hTrace hActs⟩

/-- Every task keeps the invariant, however its write goes. -/
theorem SettleInv.of_performTask {w : WriteOutcome} {extra : Nat} {rest : List HostTask} {h h' : Session}
    {t : HostTask} (hInv : SettleInv h) (ht : h.tasks = t :: rest) (hp : performTask w extra rest h t = .next h') :
    SettleInv h' := by
  have hPlan := ht ▸ hInv.plan
  obtain ⟨hStart, hStartSettle, hStop, hStopSettle⟩ := plan_order hPlan
  refine ⟨?_, hInv.startPair.of_performTask (sel := 0b00#2) ht hp hStart hStartSettle,
    hInv.stopPair.of_performTask (sel := 0b01#2) ht hp hStop hStopSettle⟩
  obtain ⟨_, hNil | ⟨hRest, _⟩⟩ := performTask_cases hp
  · exact .inl (hNil ▸ List.nil_suffix)
  · rw [hRest]
    exact hPlan.imp (List.suffix_cons t rest).trans (List.suffix_cons t rest).trans

/-- The tasks of a call are none, or a whole plan. -/
theorem planOf_cases (started : Bool) (c : HostCall) :
    planOf started c = [] ∨ planOf started c = startPlan ∨ planOf started c = stopPlan := by
  cases c with
  | start => cases started <;> simp [planOf]
  | stop => exact .inr (.inr rfl)

/-- Going on keeps the invariant: by a task, by beginning a call, or with nothing to do. -/
theorem SettleInv.of_proceed {w : WriteOutcome} {extra : Nat} {h h' : Session} (hInv : SettleInv h)
    (hp : proceed w extra h = .next h') : SettleInv h' := by
  cases ht : h.tasks with
  | cons t rest =>
    rw [proceed_of_tasks ht] at hp
    exact hInv.of_performTask ht hp
  | nil =>
    cases hw : h.waiting with
    | nil =>
      rw [proceed_of_noCall ⟨ht, hw⟩] at hp
      cases hp
      exact hInv
    | cons c cs =>
      rw [proceed_of_waiting ht hw] at hp
      cases hp
      exact .of_plan (by simpa using planOf_cases h.started c)

/-! ### What arrives -/

/-- The same calls, with the same tasks left and the same answers: what the course of start() and stop() depends on. -/
structure SameCalls (h k : Session) : Prop where
  tasks : k.tasks = h.tasks
  waiting : k.waiting = h.waiting
  started : k.started = h.started
  answers : k.answers = h.answers
  settleDelay : k.settleDelay = h.settleDelay

/-- What arrives leaves the calls alone, and only a single command's write is noted (R212). -/
theorem hostReact_arrival {e : HostEvent} (he : isArrival e = true) (h : Session) :
    ∃ h', hostReact e h = .next h' ∧ SameCalls h h' ∧ h'.trace = h.trace ++ commandActs [e] := by
  cases e with
  | call | proceed => cases he
  | deliver chunk =>
    obtain ⟨t, ht⟩ := exec_next (.ingest chunk) h.block
    exact ⟨_, issue_next (decodeRequest_ingest chunk) ht, ⟨rfl, rfl, rfl, rfl, rfl⟩, (List.append_nil _).symm⟩
  | poll a => exact ⟨_, poll_next a h, ⟨rfl, rfl, rfl, rfl, rfl⟩, (List.append_nil _).symm⟩
  | command a sel w => exact ⟨_, singleCommand_next a sel w h, ⟨rfl, rfl, rfl, rfl, rfl⟩, rfl⟩
  | transportFault => exact ⟨h, rfl, ⟨rfl, rfl, rfl, rfl, rfl⟩, (List.append_nil _).symm⟩

/-- A write is no wait. -/
theorem isWait_of_mem_commandActs {a : HostAct} {es : List HostEvent} (ha : a ∈ commandActs es) : isWait a = false := by
  induction es with
  | nil => cases ha
  | cons e es ih =>
    cases e with
    | command _ sel w =>
      obtain rfl | ha := List.mem_cons.1 ha
      · cases w <;> rfl
      · exact ih ha
    | call | proceed | deliver | poll | transportFault => exact ih ha

/-- An arrival keeps the invariant. -/
theorem SettleInv.of_arrival {e : HostEvent} {h h' : Session} (hInv : SettleInv h) (he : isArrival e = true)
    (hr : hostReact e h = .next h') : SettleInv h' := by
  obtain ⟨k, hk, hCalls, hTrace⟩ := hostReact_arrival he h
  obtain rfl : k = h' := by simpa [hk] using hr
  exact hInv.of_acts hCalls.tasks hCalls.settleDelay hTrace fun _ => isWait_of_mem_commandActs

/-- Settles O59: a call made changes no task, going on performs one, and what arrives waits for nothing. -/
theorem everyHostEventKeepsSettleInv : Obligations.EveryHostEventKeepsSettleInv := by
  intro e h h' hInv hr
  cases e with
  | call c =>
    cases hr
    exact hInv.of_acts (acts := []) rfl rfl (List.append_nil _).symm nofun
  | proceed w extra => exact hInv.of_proceed hr
  | deliver | poll | command | transportFault => exact hInv.of_arrival rfl hr

/-- Settles O58. -/
theorem settleInvAtOpening : Obligations.SettleInvAtOpening :=
  fun _ _ => .of_plan (.inl rfl)

end Sys2Proof.Machine
end

section
/-! SUPPORT. start() and stop() (60_exceptions.md section 8, 70_reset_and_hazards.md sections 2 and 3): their course with
nothing arriving, computed once, and a simulation that carries it over to every run with the same own events. -/

namespace Sys2Proof.Machine

/-! ### Single reactions -/

/-- Settles O60: each reaction is the one operation it issues. -/
theorem hostReactions : Obligations.HostReactions := by
  intro h c a sel t
  refine ⟨fun hIngest => issue_next (decodeRequest_ingest c) hIngest, fun hRead => ?_,
    ⟨commandFrame sel, exec_encodeOfSel sel h.block, singleCommand_next a sel .accepted h,
      singleCommand_next a sel .faulted h⟩, rfl⟩
  cases hRead
  exact poll_next a h

/-- Settles O56: the write is noted as failed, and the call ends with the fault as its answer. -/
theorem failedWriteEndsOnlyTheCall : Obligations.FailedWriteEndsOnlyTheCall := by
  intro h sel rest extra ht
  refine ⟨abandonCall (written sel .faulted h), commandFrame sel, ?_, rfl, rfl, rfl, rfl, rfl, rfl, ?_, rfl, rfl⟩
  · rw [hostReact, proceed_of_tasks ht, performTask_send]
    rfl
  · simp [abandonCall, written, writeAct, bytesWritten]

/-! ### The course of a call with nothing arriving -/

/-- A call made with no other in progress begins as soon as the host goes on. -/
theorem hostRun_call_proceed {h : Session} (hn : noCall h) (c : HostCall) (w : WriteOutcome) (extra : Nat)
    (es : List HostEvent) :
    hostRun (.call c :: .proceed w extra :: es) h = hostRun es (continueCall (planOf h.started c) h) := by
  obtain ⟨hTasks, hWaiting⟩ := hn
  have hMade : hostReact (.call c) h = .next { h with waiting := [c] } := by rw [hostReact, hWaiting]; rfl
  rw [hostRun_cons hMade, hostRun_cons (e := .proceed w extra)
    (proceed_of_waiting (h := { h with waiting := [c] }) hTasks rfl w extra), ← hWaiting]

/-- One task of a call, then the rest of the run. -/
theorem hostRun_task {h h' : Session} {t : HostTask} {rest : List HostTask} {w : WriteOutcome} {extra : Nat}
    (ht : h.tasks = t :: rest) (hp : performTask w extra rest h t = .next h') (es : List HostEvent) :
    hostRun (.proceed w extra :: es) h = hostRun es h' :=
  hostRun_cons ((proceed_of_tasks ht w extra).trans hp)

/-- Settles O54: a start() when started has no tasks, so it completes as it begins. -/
theorem startWhenStartedDoesNothing : Obligations.StartWhenStartedDoesNothing := by
  intro w extra h hStarted hn
  rw [hostRun_call_proceed hn, hostRun, hStarted, planOf, if_pos rfl, continueCall, ← hn.1, hStarted]

/-- The tasks that write a pair of commands: all those of stop(), and those of start() after its RESET (R231, R232). -/
def pairTasks (first second : BitVec 2) (started : Bool) : List HostTask :=
  [.send first, .settle, .send second, .setStarted started]

/-- The session in which a pair's first command was written and its pause kept. -/
def paused (first second : BitVec 2) (started : Bool) (extra : Nat) (h : Session) : Session :=
  { h with
    block := encodeCommand first h.block,
    trace := h.trace ++ [.wrote (bytesOf first), .waited (h.settleDelay + extra)],
    tasks := [.send second, .setStarted started] }

/-- The first half of a pair. -/
theorem hostRun_paused (first second : BitVec 2) (started : Bool) (extra : Nat) (h : Session) (es : List HostEvent) :
    hostRun (.proceed .accepted extra :: .proceed .accepted extra :: es)
        { h with tasks := pairTasks first second started } =
      hostRun es (paused first second started extra h) := by
  rw [hostRun_task rfl (performTask_send ..), hostRun_task rfl (performTask_settle ..)]
  simp [afterWrite, continueCall, written, writeAct, note, paused]

/-- The session after a pair of commands was written, its pause kept, and the started flag recorded. -/
def pairWritten (first second : BitVec 2) (started : Bool) (extra : Nat) (h : Session) : Session :=
  { h with
    block := encodeCommand second (encodeCommand first h.block),
    trace := h.trace ++ pairTrace h.settleDelay extra (bytesOf first) (bytesOf second),
    started := started, tasks := [], answers := h.answers ++ [.completed] }

/-- A pair of commands of which both writes are taken. -/
theorem hostRun_pairWritten (first second : BitVec 2) (started : Bool) (extra : Nat) (h : Session) :
    hostRun (List.replicate 4 (.proceed .accepted extra)) { h with tasks := pairTasks first second started } =
      .next (pairWritten first second started extra h) := by
  rw [show List.replicate 4 (HostEvent.proceed .accepted extra) = [_, _, _, _] from rfl, hostRun_paused,
    hostRun_task rfl (performTask_send ..), hostRun_task rfl (performTask_setStarted ..), hostRun]
  simp [afterWrite, continueCall, written, writeAct, paused, pairWritten, pairTrace]

/-- The session after a call whose second write faulted: the fault is its answer, and the started flag stays (R206). -/
def secondFailed (first second : BitVec 2) (extra : Nat) (h : Session) : Session :=
  { h with
    block := encodeCommand second (encodeCommand first h.block),
    trace := h.trace ++ [.wrote (bytesOf first), .waited (h.settleDelay + extra), .writeFailed (bytesOf second)],
    tasks := [], answers := h.answers ++ [.transportFault] }

/-- A pair of commands of which the second write faults. -/
theorem hostRun_secondFailed (first second : BitVec 2) (started : Bool) (extra : Nat) (h : Session) :
    hostRun [.proceed .accepted extra, .proceed .accepted extra, .proceed .faulted extra]
        { h with tasks := pairTasks first second started } =
      .next (secondFailed first second extra h) := by
  rw [hostRun_paused, hostRun_task rfl (performTask_send ..), hostRun]
  simp [afterWrite, abandonCall, written, writeAct, paused, secondFailed]

/-- A session whose block was reset, as the first task of start() leaves it. -/
def blockReset (h : Session) : Session := { h with block := respond .reset (resetBlock h.block) }

/-- A start() that is begun and has reset the block goes on to its pair (R231). -/
theorem hostRun_start {h : Session} (hStarted : h.started = false) (hn : noCall h) (extra : Nat)
    (es : List HostEvent) :
    hostRun (.call .start :: .proceed .accepted extra :: .proceed .accepted extra :: es) h =
      hostRun es { blockReset h with tasks := pairTasks 0b00#2 0b10#2 true } := by
  rw [hostRun_call_proceed hn, hStarted,
    hostRun_task (t := .reset) (rest := pairTasks 0b00#2 0b10#2 true) rfl (performTask_reset ..)]
  rfl

/-- A start() with nothing arriving. -/
theorem hostRun_startEvents {h : Session} (hStarted : h.started = false) (hn : noCall h) (extra : Nat) :
    hostRun (startEvents extra) h = .next (pairWritten 0b00#2 0b10#2 true extra (blockReset h)) :=
  (hostRun_start hStarted hn extra _).trans (hostRun_pairWritten ..)

/-- A start() whose second write faults, with nothing arriving. -/
theorem hostRun_failedStart {h : Session} (hStarted : h.started = false) (hn : noCall h) (extra : Nat) :
    hostRun (.call .start :: (List.replicate 4 (.proceed .accepted extra) ++ [.proceed .faulted extra])) h =
      .next (secondFailed 0b00#2 0b10#2 extra (blockReset h)) :=
  (hostRun_start hStarted hn extra _).trans (hostRun_secondFailed ..)

/-- A stop() with nothing arriving, started or not (R232). -/
theorem hostRun_stopEvents {h : Session} (hn : noCall h) (extra : Nat) :
    hostRun (stopEvents extra) h = .next (pairWritten 0b01#2 0b11#2 false extra h) :=
  (hostRun_call_proceed hn .stop .accepted extra _).trans (hostRun_pairWritten ..)

/-! ### A trace with the writes of single commands in it -/

theorem Interleaved.nil : Interleaved [] [] [] :=
  ⟨.refl _, .refl _, .refl _⟩

/-- The call's own acts first. -/
theorem Interleaved.own_append {own commands trace : List HostAct} (h : Interleaved own commands trace)
    (acts : List HostAct) : Interleaved (acts ++ own) commands (acts ++ trace) where
  acts := by rw [List.append_assoc]; exact h.acts.append_left acts
  own := h.own.append_left acts
  commands := List.sublist_append_of_sublist_right h.commands

/-- The writes of single commands first. -/
theorem Interleaved.commands_append {own commands trace : List HostAct} (h : Interleaved own commands trace)
    (acts : List HostAct) : Interleaved own (acts ++ commands) (acts ++ trace) where
  acts := (h.acts.append_left acts).trans (List.perm_append_comm_assoc ..)
  own := List.sublist_append_of_sublist_right h.own
  commands := h.commands.append_left acts

/-- With no single command the trace is the call's own. -/
theorem Interleaved.eq_own {own trace : List HostAct} (h : Interleaved own [] trace) : trace = own :=
  (h.own.eq_of_length (by simpa using h.acts.length_eq.symm)).symm

/-! ### Whatever arrives among a call's own events -/

theorem SameCalls.refl (h : Session) : SameCalls h h :=
  ⟨rfl, rfl, rfl, rfl, rfl⟩

theorem SameCalls.trans {h k l : Session} (hk : SameCalls h k) (kl : SameCalls k l) : SameCalls h l :=
  ⟨kl.tasks.trans hk.tasks, kl.waiting.trans hk.waiting, kl.started.trans hk.started, kl.answers.trans hk.answers,
    kl.settleDelay.trans hk.settleDelay⟩

/-- The same calls go on alike. -/
theorem SameCalls.continueCall {h k : Session} (hs : SameCalls h k) (rest : List HostTask) :
    SameCalls (continueCall rest h) (continueCall rest k) := by
  refine ⟨by simp, by simp [hs.waiting], by simp [hs.started], ?_, by simp [hs.settleDelay]⟩
  cases rest with
  | nil => exact congrArg (· ++ [CallAnswer.completed]) hs.answers
  | cons => exact hs.answers

/-- The same step of two sessions with the same calls: calls the same again, and the same acts. -/
def SameStep (h k : Session) (oh ok : SessionResult) : Prop :=
  ∃ h' k' acts, oh = .next h' ∧ ok = .next k' ∧ SameCalls h' k' ∧ h'.trace = h.trace ++ acts ∧
    k'.trace = k.trace ++ acts

/-- A task is performed alike in two sessions with the same calls. -/
theorem SameCalls.performTask {h k : Session} (hs : SameCalls h k) (w : WriteOutcome) (extra : Nat)
    (rest : List HostTask) (t : HostTask) :
    SameStep h k (performTask w extra rest h t) (performTask w extra rest k t) := by
  cases t with
  | reset =>
    refine ⟨_, _, [], performTask_reset .., performTask_reset .., .continueCall ?_ rest, by simp, by simp⟩
    exact { hs with }
  | send sel =>
    refine ⟨_, _, [writeAct w (bytesOf sel)], performTask_send .., performTask_send .., ?_, ?_, ?_⟩
    · cases w with
      | accepted => exact SameCalls.continueCall (h := written sel _ h) (k := written sel _ k) { hs with } rest
      | faulted => exact { hs with tasks := rfl, answers := congrArg (· ++ [CallAnswer.transportFault]) hs.answers }
    all_goals cases w <;> simp [afterWrite, abandonCall, written]
  | settle =>
    refine ⟨_, _, [.waited (h.settleDelay + extra)], performTask_settle .., performTask_settle ..,
      .continueCall ?_ rest, ?_, ?_⟩
    · exact { hs with }
    all_goals simp [note, hs.settleDelay]
  | setStarted b =>
    refine ⟨_, _, [], performTask_setStarted .., performTask_setStarted .., .continueCall ?_ rest, by simp, by simp⟩
    exact { hs with started := rfl }

/-- The host goes on alike in two sessions with the same calls. -/
theorem SameCalls.proceed {h k : Session} (hs : SameCalls h k) (w : WriteOutcome) (extra : Nat) :
    SameStep h k (proceed w extra h) (proceed w extra k) := by
  cases ht : h.tasks with
  | cons t rest =>
    rw [proceed_of_tasks ht, proceed_of_tasks (hs.tasks.trans ht)]
    exact hs.performTask w extra rest t
  | nil =>
    have ht' := hs.tasks.trans ht
    cases hw : h.waiting with
    | nil =>
      exact ⟨h, k, [], proceed_of_noCall ⟨ht, hw⟩ w extra, proceed_of_noCall ⟨ht', hs.waiting.trans hw⟩ w extra, hs,
        by simp, by simp⟩
    | cons c cs =>
      rw [proceed_of_waiting ht hw, proceed_of_waiting ht' (hs.waiting.trans hw), hs.started]
      refine ⟨_, _, [], rfl, rfl, .continueCall ?_ _, by simp, by simp⟩
      exact { hs with waiting := rfl, started := rfl }

/-- A call's own event has the same effect in two sessions with the same calls. -/
theorem SameCalls.hostReact {h k : Session} (hs : SameCalls h k) {e : HostEvent} (he : isArrival e = false) :
    SameStep h k (hostReact e h) (hostReact e k) := by
  cases e with
  | call c =>
    exact ⟨_, _, [], rfl, rfl, { hs with waiting := congrArg (· ++ [c]) hs.waiting }, by simp, by simp⟩
  | proceed w extra => exact hs.proceed w extra
  | deliver | poll | command | transportFault => cases he

/-- The writes of single commands, one event at a time. -/
theorem commandActs_cons (e : HostEvent) (es : List HostEvent) :
    commandActs (e :: es) = commandActs [e] ++ commandActs es := by
  cases e <;> rfl

/-- A call's own event is no single command. -/
theorem commandActs_of_own {e : HostEvent} (he : isArrival e = false) (es : List HostEvent) :
    commandActs (e :: es) = commandActs es := by
  cases e with
  | call | proceed => rfl
  | deliver | poll | command | transportFault => cases he

/-- Whatever arrives, the calls go as in the run of the own events alone, and the trace is that run's with the writes of
the single commands in it. Induction over the events: an arrival touches only the trace, an own event is done alike in
both runs. -/
theorem hostRun_of_ownEvents {es : List HostEvent} {h k k' : Session} (hs : SameCalls k h)
    (hRun : hostRun (ownEvents es) k = .next k') :
    ∃ h' own new, hostRun es h = .next h' ∧ SameCalls k' h' ∧ k'.trace = k.trace ++ own ∧
      h'.trace = h.trace ++ new ∧ Interleaved own (commandActs es) new := by
  induction es generalizing h k with
  | nil =>
    cases hRun
    exact ⟨h, [], [], rfl, hs, by simp, by simp, .nil⟩
  | cons e es ih =>
    cases he : isArrival e with
    | true =>
      obtain ⟨h1, hReact, hs1, hTrace1⟩ := hostReact_arrival he h
      obtain ⟨h', own, new, hRun', hs', hOwn, hNew, hMix⟩ :=
        ih (hs.trans hs1) (by simpa [ownEvents, he] using hRun)
      exact ⟨h', own, commandActs [e] ++ new, (hostRun_cons hReact).trans hRun', hs', hOwn,
        by rw [hNew, hTrace1, List.append_assoc], commandActs_cons e es ▸ hMix.commands_append _⟩
    | false =>
      obtain ⟨k1, h1, acts, hReactK, hReactH, hs1, hTraceK, hTraceH⟩ := hs.hostReact he
      have hRest : hostRun (ownEvents es) k1 = .next k' := by
        rw [← hostRun_cons hReactK]
        simpa [ownEvents, he] using hRun
      obtain ⟨h', own, new, hRun', hs', hOwn, hNew, hMix⟩ := ih hs1 hRest
      exact ⟨h', acts ++ own, acts ++ new, (hostRun_cons hReactH).trans hRun', hs',
        by rw [hOwn, hTraceK, List.append_assoc], by rw [hNew, hTraceH, List.append_assoc],
        commandActs_of_own he es ▸ hMix.own_append acts⟩

/-- What a call of the session h has come to in h': the flag, its answer, and its own acts in the trace, with the writes
of the single commands sent meanwhile. -/
structure CallDone (h h' : Session) (started : Bool) (answer : CallAnswer) (own commands : List HostAct) : Prop where
  started : h'.started = started
  noCall : noCall h'
  answers : h'.answers = h.answers ++ [answer]
  settleDelay : h'.settleDelay = h.settleDelay
  trace : ∃ new, h'.trace = h.trace ++ new ∧ Interleaved own commands new

/-- A call with arrivals among its own events comes to what it comes to with none. -/
theorem callDone_of_ownEvents {es events : List HostEvent} {h k : Session} {started : Bool} {answer : CallAnswer}
    {own : List HostAct} (hOwn : ownEvents es = events) (hRun : hostRun events h = .next k)
    (hDone : CallDone h k started answer own []) :
    ∃ h', hostRun es h = .next h' ∧ CallDone h h' started answer own (commandActs es) := by
  obtain ⟨h', own', new, hRun', hs, hTrace, hNew, hMix⟩ := hostRun_of_ownEvents (.refl h) (hOwn ▸ hRun)
  obtain ⟨alone, hAlone, hAloneMix⟩ := hDone.trace
  obtain rfl : own' = own := by
    rw [hAloneMix.eq_own, hTrace] at hAlone
    exact List.append_cancel_left hAlone
  exact ⟨h', hRun', hs.started.trans hDone.started,
    ⟨hs.tasks.trans hDone.noCall.1, hs.waiting.trans hDone.noCall.2⟩, hs.answers.trans hDone.answers,
    hs.settleDelay.trans hDone.settleDelay, new, hNew, hMix⟩

/-- A call's own acts, with no single command among them. -/
theorem Interleaved.of_own (own : List HostAct) : Interleaved own [] own := by
  simpa using Interleaved.nil.own_append own

/-- A start() with arrivals among its tasks (R231, R234). -/
theorem callDone_start {es : List HostEvent} {h : Session} {extra : Nat} (hStarted : h.started = false)
    (hn : noCall h) (hOwn : ownEvents es = startEvents extra) :
    ∃ h', hostRun es h = .next h' ∧ CallDone h h' true .completed
      (pairTrace h.settleDelay extra (bytesOf 0b00#2) (bytesOf 0b10#2)) (commandActs es) :=
  callDone_of_ownEvents hOwn (hostRun_startEvents hStarted hn extra)
    ⟨rfl, ⟨rfl, hn.2⟩, rfl, rfl, _, rfl, .of_own _⟩

/-- A stop() with arrivals among its tasks (R232, R234). -/
theorem callDone_stop {es : List HostEvent} {h : Session} {extra : Nat} (hn : noCall h)
    (hOwn : ownEvents es = stopEvents extra) :
    ∃ h', hostRun es h = .next h' ∧ CallDone h h' false .completed
      (pairTrace h.settleDelay extra (bytesOf 0b01#2) (bytesOf 0b11#2)) (commandActs es) :=
  callDone_of_ownEvents hOwn (hostRun_stopEvents hn extra) ⟨rfl, ⟨rfl, hn.2⟩, rfl, rfl, _, rfl, .of_own _⟩

/-- A start() whose second write faults, with arrivals among its tasks (R206). -/
theorem callDone_failedStart {es : List HostEvent} {h : Session} {extra : Nat} (hStarted : h.started = false)
    (hn : noCall h) (hOwn : ownEvents es =
      .call .start :: (List.replicate 4 (.proceed .accepted extra) ++ [.proceed .faulted extra])) :
    ∃ h', hostRun es h = .next h' ∧ CallDone h h' false .transportFault
      [.wrote (bytesOf 0b00#2), .waited (h.settleDelay + extra), .writeFailed (bytesOf 0b10#2)] (commandActs es) :=
  callDone_of_ownEvents hOwn (hostRun_failedStart hStarted hn extra)
    ⟨hStarted, ⟨rfl, hn.2⟩, rfl, rfl, _, rfl, .of_own _⟩

/-! ### The statements on start() and stop() -/

/-- Settles O53: the block's state is that of the run with nothing arriving. -/
theorem startWritesTheStartPair : Obligations.StartWritesTheStartPair := by
  intro extra h hStarted hn
  refine ⟨fun es hOwn => ?_, _, hostRun_startEvents hStarted hn extra, ?_⟩
  · obtain ⟨h', hRun, hDone⟩ := callDone_start hStarted hn hOwn
    obtain ⟨new, hNew, hMix⟩ := hDone.trace
    exact ⟨h', new, hRun, hDone.started, hDone.noCall, hDone.answers, hDone.settleDelay, hNew, hMix⟩
  · have hThree : ∀ (rs : List Response) (x y z : Response), rs ++ [x, y, z] = ((rs ++ [x]) ++ [y]) ++ [z] := by simp
    rw [hThree]
    rfl

/-- The bytes of a pair of commands are those of its two writes. -/
theorem bytesWritten_pairTrace (settleDelay extra : Nat) (first second : List Byte) :
    bytesWritten (pairTrace settleDelay extra first second) = first ++ second := by
  simp [pairTrace, bytesWritten]

/-- Settles O55: the second stop() finds no call in progress, as the first did. -/
theorem stopTwiceWritesTheSamePair : Obligations.StopTwiceWritesTheSamePair := by
  intro extra extra' h hn
  refine ⟨fun es es' hOwn hOwn' => ?_, _, _, hostRun_stopEvents hn extra,
    hostRun_stopEvents (h := pairWritten ..) ⟨rfl, hn.2⟩ extra', ⟨rfl, rfl, rfl, rfl, rfl⟩, ⟨rfl, rfl, rfl, rfl, rfl⟩⟩
  obtain ⟨h1, hRun, hDone⟩ := callDone_stop hn hOwn
  obtain ⟨h2, hRun', hDone'⟩ := callDone_stop hDone.noCall hOwn'
  obtain ⟨new, hNew, hMix⟩ := hDone.trace
  obtain ⟨new', hNew', hMix'⟩ := hDone'.trace
  rw [hDone.settleDelay] at hMix'
  refine ⟨h1, h2, new, new', hRun, hRun', hDone.started, hDone'.started, ?_, hNew, hNew', hMix, hMix', fun hAlone => ?_⟩
  · rw [hDone'.answers, hDone.answers, List.append_assoc]
    rfl
  · rw [hAlone] at hMix'
    rw [hNew', hMix'.eq_own, bytesWritten_append, bytesWritten_pairTrace]
    rfl

/-- Settles O57: the failed start() leaves no call in progress and the flag unset, so the next one has all its tasks. -/
theorem failedStartCanBeMadeAgain : Obligations.FailedStartCanBeMadeAgain := by
  intro extra extra' h hStarted hn es es' hOwn hOwn'
  obtain ⟨h1, hRun, hDone⟩ := callDone_failedStart hStarted hn hOwn
  obtain ⟨h2, hRun', hDone'⟩ := callDone_start hDone.started hDone.noCall hOwn'
  obtain ⟨new, hNew, hMix⟩ := hDone.trace
  obtain ⟨new', hNew', hMix'⟩ := hDone'.trace
  rw [hDone.settleDelay] at hMix'
  refine ⟨h1, h2, new, new', hRun, hDone.started, hDone.answers, hNew, hMix, hRun', hDone'.started, ?_, hNew', hMix'⟩
  rw [hDone'.answers, hDone.answers, List.append_assoc]
  rfl

end Sys2Proof.Machine
end
